-- ==== Sys2Proof/Word.lean ====
section
/-! DEFINITION. The two widths of the machine: the 8-bit byte and the 16-bit word (00_scope.md R7). -/

namespace Sys2Proof

/-- The unit of addressing and of transfer, 8 bits (20_memory.md R51). -/
abbrev Byte := BitVec 8

/-- A 16-bit register value, address or offset (00_scope.md R7). -/
abbrev Word := BitVec 16

end Sys2Proof
end

