-- ==== Sys2Proof/Syntax.lean ====
section
/-! DEFINITION. The instructions as data: one constructor for each of the 268 rows of spec/opcode_table.json
(30_encoding.md R84, R86, R87), with its operands already taken out of their bytes (R112). -/

namespace Sys2Proof

/-- The four pointer registers of indexed addressing, `pb[6:5]` (30_encoding.md R99). -/
inductive Ptr where
  | x | y | u | s
  deriving DecidableEq, Repr

/-- The registers an EXG or TFR postbyte names (30_encoding.md R97). -/
inductive XReg where
  | d | x | y | u | s | pc | a | b | cc | dp
  deriving DecidableEq, Repr

/-- The register list of PSHS, PULS, PSHU, PULU, one field for each postbyte bit, 7 to 0
(30_encoding.md R98). `other` is the other stack pointer: U on the S stack, S on the U stack. -/
structure RegList where
  pc : Bool
  other : Bool
  y : Bool
  x : Bool
  dp : Bool
  b : Bool
  a : Bool
  cc : Bool
  deriving DecidableEq, Repr

/-- A legal indexed operand: the 217 legal postbytes of 30_encoding.md R109 with their offset or address
bytes. `i` is the indirect field. The register field of the PC-relative forms is a don't-care and is not kept
(R106, log entry 17). -/
inductive Idx where
  | off5 (r : Ptr) (n : BitVec 5)           -- `n,R`, 5-bit offset (R100)
  | zero (r : Ptr) (i : Bool)               -- `,R` (R101)
  | off8 (r : Ptr) (i : Bool) (n : Byte)    -- `n,R`, 8-bit offset (R102)
  | off16 (r : Ptr) (i : Bool) (n : Word)   -- `n,R`, 16-bit offset (R103)
  | accA (r : Ptr) (i : Bool)               -- `A,R` (R104)
  | accB (r : Ptr) (i : Bool)               -- `B,R` (R104)
  | accD (r : Ptr) (i : Bool)               -- `D,R` (R104)
  | inc1 (r : Ptr)                          -- `,R+` (R105)
  | inc2 (r : Ptr) (i : Bool)               -- `,R++` (R105)
  | dec1 (r : Ptr)                          -- `,-R` (R105)
  | dec2 (r : Ptr) (i : Bool)               -- `,--R` (R105)
  | pcr8 (i : Bool) (n : Byte)              -- `n,PCR`, 8-bit offset (R106)
  | pcr16 (i : Bool) (n : Word)             -- `n,PCR`, 16-bit offset (R106)
  | extInd (a : Word)                       -- `[n]` (R108)
  deriving DecidableEq, Repr

/-- The instructions. A name is the row's mnemonic, with the addressing mode (Imm, Dir, Idx, Ext) where the mnemonic
has several rows; the comment gives the row's bytes and the rule of its meaning. Operands: `m` an immediate, `d` a
direct-page offset, `a` an extended address, `ix` an indexed operand, `o` a relative offset, `r1` and `r2` the registers
of EXG and TFR, `l` a register list. The constructors stand in the table's order, those without an operand last (Lean's
runtime has room for 244 constructors with fields). -/
inductive Instr where
  | negDir (d : Byte)             -- 00 dd (R170)
  | comDir (d : Byte)             -- 03 dd (R150)
  | lsrDir (d : Byte)             -- 04 dd (R166)
  | rorDir (d : Byte)             -- 06 dd (R178)
  | asrDir (d : Byte)             -- 07 dd (R140)
  | aslDir (d : Byte)             -- 08 dd (R137)
  | rolDir (d : Byte)             -- 09 dd (R175)
  | decDir (d : Byte)             -- 0A dd (R154)
  | incDir (d : Byte)             -- 0C dd (R160)
  | tstDir (d : Byte)             -- 0D dd (R187)
  | jmpDir (d : Byte)             -- 0E dd (R303)
  | clrDir (d : Byte)             -- 0F dd (R145)
  | lbra (o : Word)               -- 16 rr rr (R290)
  | lbsr (o : Word)               -- 17 rr rr (R292)
  | orcc (m : Byte)               -- 1A ii (R306)
  | andcc (m : Byte)              -- 1C ii (R301)
  | exg (r1 r2 : XReg)            -- 1E pb (R159)
  | tfr (r1 r2 : XReg)            -- 1F pb (R190)
  | bra (o : Byte)                -- 20 rr (R273)
  | brn (o : Byte)                -- 21 rr (R274)
  | bhi (o : Byte)                -- 22 rr (R266)
  | bls (o : Byte)                -- 23 rr (R268)
  | bcc (o : Byte)                -- 24 rr (R261)
  | bcs (o : Byte)                -- 25 rr (R262)
  | bne (o : Byte)                -- 26 rr (R271)
  | beq (o : Byte)                -- 27 rr (R263)
  | bvc (o : Byte)                -- 28 rr (R276)
  | bvs (o : Byte)                -- 29 rr (R277)
  | bpl (o : Byte)                -- 2A rr (R272)
  | bmi (o : Byte)                -- 2B rr (R270)
  | bge (o : Byte)                -- 2C rr (R264)
  | blt (o : Byte)                -- 2D rr (R269)
  | bgt (o : Byte)                -- 2E rr (R265)
  | ble (o : Byte)                -- 2F rr (R267)
  | leax (ix : Idx)               -- 30 pb (R231)
  | leay (ix : Idx)               -- 31 pb (R232)
  | leas (ix : Idx)               -- 32 pb (R229)
  | leau (ix : Idx)               -- 33 pb (R230)
  | pshs (l : RegList)            -- 34 pb (R233)
  | puls (l : RegList)            -- 35 pb (R235)
  | pshu (l : RegList)            -- 36 pb (R234)
  | pulu (l : RegList)            -- 37 pb (R236)
  | cwai (m : Byte)               -- 3C ii (R302)
  | negIdx (ix : Idx)             -- 60 pb (R170)
  | comIdx (ix : Idx)             -- 63 pb (R150)
  | lsrIdx (ix : Idx)             -- 64 pb (R166)
  | rorIdx (ix : Idx)             -- 66 pb (R178)
  | asrIdx (ix : Idx)             -- 67 pb (R140)
  | aslIdx (ix : Idx)             -- 68 pb (R137)
  | rolIdx (ix : Idx)             -- 69 pb (R175)
  | decIdx (ix : Idx)             -- 6A pb (R154)
  | incIdx (ix : Idx)             -- 6C pb (R160)
  | tstIdx (ix : Idx)             -- 6D pb (R187)
  | jmpIdx (ix : Idx)             -- 6E pb (R303)
  | clrIdx (ix : Idx)             -- 6F pb (R145)
  | negExt (a : Word)             -- 70 hh ll (R170)
  | comExt (a : Word)             -- 73 hh ll (R150)
  | lsrExt (a : Word)             -- 74 hh ll (R166)
  | rorExt (a : Word)             -- 76 hh ll (R178)
  | asrExt (a : Word)             -- 77 hh ll (R140)
  | aslExt (a : Word)             -- 78 hh ll (R137)
  | rolExt (a : Word)             -- 79 hh ll (R175)
  | decExt (a : Word)             -- 7A hh ll (R154)
  | incExt (a : Word)             -- 7C hh ll (R160)
  | tstExt (a : Word)             -- 7D hh ll (R187)
  | jmpExt (a : Word)             -- 7E hh ll (R303)
  | clrExt (a : Word)             -- 7F hh ll (R145)
  | subaImm (m : Byte)            -- 80 ii (R185)
  | cmpaImm (m : Byte)            -- 81 ii (R148)
  | sbcaImm (m : Byte)            -- 82 ii (R181)
  | subdImm (m : Word)            -- 83 hh ll (R206)
  | andaImm (m : Byte)            -- 84 ii (R135)
  | bitaImm (m : Byte)            -- 85 ii (R143)
  | ldaImm (m : Byte)             -- 86 ii (R163)
  | eoraImm (m : Byte)            -- 88 ii (R157)
  | adcaImm (m : Byte)            -- 89 ii (R131)
  | oraImm (m : Byte)             -- 8A ii (R173)
  | addaImm (m : Byte)            -- 8B ii (R133)
  | cmpxImm (m : Word)            -- 8C hh ll (R223)
  | bsr (o : Byte)                -- 8D rr (R275)
  | ldxImm (m : Word)             -- 8E hh ll (R227)
  | subaDir (d : Byte)            -- 90 dd (R185)
  | cmpaDir (d : Byte)            -- 91 dd (R148)
  | sbcaDir (d : Byte)            -- 92 dd (R181)
  | subdDir (d : Byte)            -- 93 dd (R206)
  | andaDir (d : Byte)            -- 94 dd (R135)
  | bitaDir (d : Byte)            -- 95 dd (R143)
  | ldaDir (d : Byte)             -- 96 dd (R163)
  | staDir (d : Byte)             -- 97 dd (R183)
  | eoraDir (d : Byte)            -- 98 dd (R157)
  | adcaDir (d : Byte)            -- 99 dd (R131)
  | oraDir (d : Byte)             -- 9A dd (R173)
  | addaDir (d : Byte)            -- 9B dd (R133)
  | cmpxDir (d : Byte)            -- 9C dd (R223)
  | jsrDir (d : Byte)             -- 9D dd (R304)
  | ldxDir (d : Byte)             -- 9E dd (R227)
  | stxDir (d : Byte)             -- 9F dd (R239)
  | subaIdx (ix : Idx)            -- A0 pb (R185)
  | cmpaIdx (ix : Idx)            -- A1 pb (R148)
  | sbcaIdx (ix : Idx)            -- A2 pb (R181)
  | subdIdx (ix : Idx)            -- A3 pb (R206)
  | andaIdx (ix : Idx)            -- A4 pb (R135)
  | bitaIdx (ix : Idx)            -- A5 pb (R143)
  | ldaIdx (ix : Idx)             -- A6 pb (R163)
  | staIdx (ix : Idx)             -- A7 pb (R183)
  | eoraIdx (ix : Idx)            -- A8 pb (R157)
  | adcaIdx (ix : Idx)            -- A9 pb (R131)
  | oraIdx (ix : Idx)             -- AA pb (R173)
  | addaIdx (ix : Idx)            -- AB pb (R133)
  | cmpxIdx (ix : Idx)            -- AC pb (R223)
  | jsrIdx (ix : Idx)             -- AD pb (R304)
  | ldxIdx (ix : Idx)             -- AE pb (R227)
  | stxIdx (ix : Idx)             -- AF pb (R239)
  | subaExt (a : Word)            -- B0 hh ll (R185)
  | cmpaExt (a : Word)            -- B1 hh ll (R148)
  | sbcaExt (a : Word)            -- B2 hh ll (R181)
  | subdExt (a : Word)            -- B3 hh ll (R206)
  | andaExt (a : Word)            -- B4 hh ll (R135)
  | bitaExt (a : Word)            -- B5 hh ll (R143)
  | ldaExt (a : Word)             -- B6 hh ll (R163)
  | staExt (a : Word)             -- B7 hh ll (R183)
  | eoraExt (a : Word)            -- B8 hh ll (R157)
  | adcaExt (a : Word)            -- B9 hh ll (R131)
  | oraExt (a : Word)             -- BA hh ll (R173)
  | addaExt (a : Word)            -- BB hh ll (R133)
  | cmpxExt (a : Word)            -- BC hh ll (R223)
  | jsrExt (a : Word)             -- BD hh ll (R304)
  | ldxExt (a : Word)             -- BE hh ll (R227)
  | stxExt (a : Word)             -- BF hh ll (R239)
  | subbImm (m : Byte)            -- C0 ii (R186)
  | cmpbImm (m : Byte)            -- C1 ii (R149)
  | sbcbImm (m : Byte)            -- C2 ii (R182)
  | adddImm (m : Word)            -- C3 hh ll (R201)
  | andbImm (m : Byte)            -- C4 ii (R136)
  | bitbImm (m : Byte)            -- C5 ii (R144)
  | ldbImm (m : Byte)             -- C6 ii (R164)
  | eorbImm (m : Byte)            -- C8 ii (R158)
  | adcbImm (m : Byte)            -- C9 ii (R132)
  | orbImm (m : Byte)             -- CA ii (R174)
  | addbImm (m : Byte)            -- CB ii (R134)
  | lddImm (m : Word)             -- CC hh ll (R203)
  | lduImm (m : Word)             -- CE hh ll (R226)
  | subbDir (d : Byte)            -- D0 dd (R186)
  | cmpbDir (d : Byte)            -- D1 dd (R149)
  | sbcbDir (d : Byte)            -- D2 dd (R182)
  | adddDir (d : Byte)            -- D3 dd (R201)
  | andbDir (d : Byte)            -- D4 dd (R136)
  | bitbDir (d : Byte)            -- D5 dd (R144)
  | ldbDir (d : Byte)             -- D6 dd (R164)
  | stbDir (d : Byte)             -- D7 dd (R184)
  | eorbDir (d : Byte)            -- D8 dd (R158)
  | adcbDir (d : Byte)            -- D9 dd (R132)
  | orbDir (d : Byte)             -- DA dd (R174)
  | addbDir (d : Byte)            -- DB dd (R134)
  | lddDir (d : Byte)             -- DC dd (R203)
  | stdDir (d : Byte)             -- DD dd (R205)
  | lduDir (d : Byte)             -- DE dd (R226)
  | stuDir (d : Byte)             -- DF dd (R238)
  | subbIdx (ix : Idx)            -- E0 pb (R186)
  | cmpbIdx (ix : Idx)            -- E1 pb (R149)
  | sbcbIdx (ix : Idx)            -- E2 pb (R182)
  | adddIdx (ix : Idx)            -- E3 pb (R201)
  | andbIdx (ix : Idx)            -- E4 pb (R136)
  | bitbIdx (ix : Idx)            -- E5 pb (R144)
  | ldbIdx (ix : Idx)             -- E6 pb (R164)
  | stbIdx (ix : Idx)             -- E7 pb (R184)
  | eorbIdx (ix : Idx)            -- E8 pb (R158)
  | adcbIdx (ix : Idx)            -- E9 pb (R132)
  | orbIdx (ix : Idx)             -- EA pb (R174)
  | addbIdx (ix : Idx)            -- EB pb (R134)
  | lddIdx (ix : Idx)             -- EC pb (R203)
  | stdIdx (ix : Idx)             -- ED pb (R205)
  | lduIdx (ix : Idx)             -- EE pb (R226)
  | stuIdx (ix : Idx)             -- EF pb (R238)
  | subbExt (a : Word)            -- F0 hh ll (R186)
  | cmpbExt (a : Word)            -- F1 hh ll (R149)
  | sbcbExt (a : Word)            -- F2 hh ll (R182)
  | adddExt (a : Word)            -- F3 hh ll (R201)
  | andbExt (a : Word)            -- F4 hh ll (R136)
  | bitbExt (a : Word)            -- F5 hh ll (R144)
  | ldbExt (a : Word)             -- F6 hh ll (R164)
  | stbExt (a : Word)             -- F7 hh ll (R184)
  | eorbExt (a : Word)            -- F8 hh ll (R158)
  | adcbExt (a : Word)            -- F9 hh ll (R132)
  | orbExt (a : Word)             -- FA hh ll (R174)
  | addbExt (a : Word)            -- FB hh ll (R134)
  | lddExt (a : Word)             -- FC hh ll (R203)
  | stdExt (a : Word)             -- FD hh ll (R205)
  | lduExt (a : Word)             -- FE hh ll (R226)
  | stuExt (a : Word)             -- FF hh ll (R238)
  | lbrn (o : Word)               -- 10 21 rr rr (R291)
  | lbhi (o : Word)               -- 10 22 rr rr (R283)
  | lbls (o : Word)               -- 10 23 rr rr (R285)
  | lbcc (o : Word)               -- 10 24 rr rr (R278)
  | lbcs (o : Word)               -- 10 25 rr rr (R279)
  | lbne (o : Word)               -- 10 26 rr rr (R288)
  | lbeq (o : Word)               -- 10 27 rr rr (R280)
  | lbvc (o : Word)               -- 10 28 rr rr (R293)
  | lbvs (o : Word)               -- 10 29 rr rr (R294)
  | lbpl (o : Word)               -- 10 2A rr rr (R289)
  | lbmi (o : Word)               -- 10 2B rr rr (R287)
  | lbge (o : Word)               -- 10 2C rr rr (R281)
  | lblt (o : Word)               -- 10 2D rr rr (R286)
  | lbgt (o : Word)               -- 10 2E rr rr (R282)
  | lble (o : Word)               -- 10 2F rr rr (R284)
  | cmpdImm (m : Word)            -- 10 83 hh ll (R202)
  | cmpyImm (m : Word)            -- 10 8C hh ll (R224)
  | ldyImm (m : Word)             -- 10 8E hh ll (R228)
  | cmpdDir (d : Byte)            -- 10 93 dd (R202)
  | cmpyDir (d : Byte)            -- 10 9C dd (R224)
  | ldyDir (d : Byte)             -- 10 9E dd (R228)
  | styDir (d : Byte)             -- 10 9F dd (R240)
  | cmpdIdx (ix : Idx)            -- 10 A3 pb (R202)
  | cmpyIdx (ix : Idx)            -- 10 AC pb (R224)
  | ldyIdx (ix : Idx)             -- 10 AE pb (R228)
  | styIdx (ix : Idx)             -- 10 AF pb (R240)
  | cmpdExt (a : Word)            -- 10 B3 hh ll (R202)
  | cmpyExt (a : Word)            -- 10 BC hh ll (R224)
  | ldyExt (a : Word)             -- 10 BE hh ll (R228)
  | styExt (a : Word)             -- 10 BF hh ll (R240)
  | ldsImm (m : Word)             -- 10 CE hh ll (R225)
  | ldsDir (d : Byte)             -- 10 DE dd (R225)
  | stsDir (d : Byte)             -- 10 DF dd (R237)
  | ldsIdx (ix : Idx)             -- 10 EE pb (R225)
  | stsIdx (ix : Idx)             -- 10 EF pb (R237)
  | ldsExt (a : Word)             -- 10 FE hh ll (R225)
  | stsExt (a : Word)             -- 10 FF hh ll (R237)
  | cmpuImm (m : Word)            -- 11 83 hh ll (R222)
  | cmpsImm (m : Word)            -- 11 8C hh ll (R221)
  | cmpuDir (d : Byte)            -- 11 93 dd (R222)
  | cmpsDir (d : Byte)            -- 11 9C dd (R221)
  | cmpuIdx (ix : Idx)            -- 11 A3 pb (R222)
  | cmpsIdx (ix : Idx)            -- 11 AC pb (R221)
  | cmpuExt (a : Word)            -- 11 B3 hh ll (R222)
  | cmpsExt (a : Word)            -- 11 BC hh ll (R221)
  | nop                           -- 12 (R305)
  | sync                          -- 13 (R320)
  | daa                           -- 19 (R153)
  | sex                           -- 1D (R204)
  | rts                           -- 39 (R313)
  | abx                           -- 3A (R241)
  | rti                           -- 3B (R312)
  | mul                           -- 3D (R169)
  | swi                           -- 3F (R314)
  | nega                          -- 40 (R171)
  | coma                          -- 43 (R151)
  | lsra                          -- 44 (R167)
  | rora                          -- 46 (R179)
  | asra                          -- 47 (R141)
  | asla                          -- 48 (R138)
  | rola                          -- 49 (R176)
  | deca                          -- 4A (R155)
  | inca                          -- 4C (R161)
  | tsta                          -- 4D (R188)
  | clra                          -- 4F (R146)
  | negb                          -- 50 (R172)
  | comb                          -- 53 (R152)
  | lsrb                          -- 54 (R168)
  | rorb                          -- 56 (R180)
  | asrb                          -- 57 (R142)
  | aslb                          -- 58 (R139)
  | rolb                          -- 59 (R177)
  | decb                          -- 5A (R156)
  | incb                          -- 5C (R162)
  | tstb                          -- 5D (R189)
  | clrb                          -- 5F (R147)
  | swi2                          -- 10 3F (R315)
  | swi3                          -- 11 3F (R316)
  deriving DecidableEq, Repr

end Sys2Proof
end

