-- ==== Sys2Proof/Machine/Bits.lean ====
section
/-! DEFINITION. Byte order and sign extension (00_scope.md R12): the helpers that the decoder and the machine share. -/

namespace Sys2Proof

/-- The more significant byte of a word, `v[15:8]`. -/
def hiByte (v : Word) : Byte := v.extractLsb' 8 8

/-- The less significant byte of a word, `v[7:0]`. -/
def loByte (v : Word) : Byte := v.extractLsb' 0 8

/-- `h : l`, the first byte the more significant (20_memory.md R52). -/
def word (h l : Byte) : Word := h ++ l

/-- `sext_16` of an 8-bit value. -/
def sext8 (v : Byte) : Word := v.signExtend 16

/-- `sext_16` of the 5-bit offset of an indexed postbyte. -/
def sext5 (v : BitVec 5) : Word := v.signExtend 16

/-- `zext_16` of an 8-bit value. -/
def zext8 (v : Byte) : Word := v.zeroExtend 16

end Sys2Proof
end

