-- ==== Sys2Proof/WellFormed.lean ====
section
/-! DEFINITION. Which instruction terms stand for an encoding: every term but an EXG or TFR of unlike registers. -/

namespace Sys2Proof

/-- Whether a register of EXG and TFR is 8 bits wide (30_encoding.md R97). -/
def XReg.is8 : XReg → Bool
  | .a | .b | .cc | .dp => true
  | .d | .x | .y | .u | .s | .pc => false

/-- An EXG or TFR names two registers of one width; every other term is well formed (30_encoding.md R97, R122). -/
def Instr.wf : Instr → Bool
  | .exg r1 r2 | .tfr r1 r2 => r1.is8 == r2.is8
  | .negDir _ | .comDir _ | .lsrDir _ | .rorDir _ | .asrDir _ | .aslDir _ | .rolDir _ | .decDir _ | .incDir _
  | .tstDir _ | .jmpDir _ | .clrDir _ | .lbra _ | .lbsr _ | .orcc _ | .andcc _ | .bra _ | .brn _ | .bhi _
  | .bls _ | .bcc _ | .bcs _ | .bne _ | .beq _ | .bvc _ | .bvs _ | .bpl _ | .bmi _ | .bge _ | .blt _ | .bgt _
  | .ble _ | .leax _ | .leay _ | .leas _ | .leau _ | .pshs _ | .puls _ | .pshu _ | .pulu _ | .cwai _
  | .negIdx _ | .comIdx _ | .lsrIdx _ | .rorIdx _ | .asrIdx _ | .aslIdx _ | .rolIdx _ | .decIdx _ | .incIdx _
  | .tstIdx _ | .jmpIdx _ | .clrIdx _ | .negExt _ | .comExt _ | .lsrExt _ | .rorExt _ | .asrExt _ | .aslExt _
  | .rolExt _ | .decExt _ | .incExt _ | .tstExt _ | .jmpExt _ | .clrExt _ | .subaImm _ | .cmpaImm _
  | .sbcaImm _ | .subdImm _ | .andaImm _ | .bitaImm _ | .ldaImm _ | .eoraImm _ | .adcaImm _ | .oraImm _
  | .addaImm _ | .cmpxImm _ | .bsr _ | .ldxImm _ | .subaDir _ | .cmpaDir _ | .sbcaDir _ | .subdDir _
  | .andaDir _ | .bitaDir _ | .ldaDir _ | .staDir _ | .eoraDir _ | .adcaDir _ | .oraDir _ | .addaDir _
  | .cmpxDir _ | .jsrDir _ | .ldxDir _ | .stxDir _ | .subaIdx _ | .cmpaIdx _ | .sbcaIdx _ | .subdIdx _
  | .andaIdx _ | .bitaIdx _ | .ldaIdx _ | .staIdx _ | .eoraIdx _ | .adcaIdx _ | .oraIdx _ | .addaIdx _
  | .cmpxIdx _ | .jsrIdx _ | .ldxIdx _ | .stxIdx _ | .subaExt _ | .cmpaExt _ | .sbcaExt _ | .subdExt _
  | .andaExt _ | .bitaExt _ | .ldaExt _ | .staExt _ | .eoraExt _ | .adcaExt _ | .oraExt _ | .addaExt _
  | .cmpxExt _ | .jsrExt _ | .ldxExt _ | .stxExt _ | .subbImm _ | .cmpbImm _ | .sbcbImm _ | .adddImm _
  | .andbImm _ | .bitbImm _ | .ldbImm _ | .eorbImm _ | .adcbImm _ | .orbImm _ | .addbImm _ | .lddImm _
  | .lduImm _ | .subbDir _ | .cmpbDir _ | .sbcbDir _ | .adddDir _ | .andbDir _ | .bitbDir _ | .ldbDir _
  | .stbDir _ | .eorbDir _ | .adcbDir _ | .orbDir _ | .addbDir _ | .lddDir _ | .stdDir _ | .lduDir _
  | .stuDir _ | .subbIdx _ | .cmpbIdx _ | .sbcbIdx _ | .adddIdx _ | .andbIdx _ | .bitbIdx _ | .ldbIdx _
  | .stbIdx _ | .eorbIdx _ | .adcbIdx _ | .orbIdx _ | .addbIdx _ | .lddIdx _ | .stdIdx _ | .lduIdx _
  | .stuIdx _ | .subbExt _ | .cmpbExt _ | .sbcbExt _ | .adddExt _ | .andbExt _ | .bitbExt _ | .ldbExt _
  | .stbExt _ | .eorbExt _ | .adcbExt _ | .orbExt _ | .addbExt _ | .lddExt _ | .stdExt _ | .lduExt _
  | .stuExt _ | .lbrn _ | .lbhi _ | .lbls _ | .lbcc _ | .lbcs _ | .lbne _ | .lbeq _ | .lbvc _ | .lbvs _
  | .lbpl _ | .lbmi _ | .lbge _ | .lblt _ | .lbgt _ | .lble _ | .cmpdImm _ | .cmpyImm _ | .ldyImm _
  | .cmpdDir _ | .cmpyDir _ | .ldyDir _ | .styDir _ | .cmpdIdx _ | .cmpyIdx _ | .ldyIdx _ | .styIdx _
  | .cmpdExt _ | .cmpyExt _ | .ldyExt _ | .styExt _ | .ldsImm _ | .ldsDir _ | .stsDir _ | .ldsIdx _ | .stsIdx _
  | .ldsExt _ | .stsExt _ | .cmpuImm _ | .cmpsImm _ | .cmpuDir _ | .cmpsDir _ | .cmpuIdx _ | .cmpsIdx _
  | .cmpuExt _ | .cmpsExt _ | .nop | .sync | .daa | .sex | .rts | .abx | .rti | .mul | .swi | .nega | .coma
  | .lsra | .rora | .asra | .asla | .rola | .deca | .inca | .tsta | .clra | .negb | .comb | .lsrb | .rorb
  | .asrb | .aslb | .rolb | .decb | .incb | .tstb | .clrb | .swi2 | .swi3 => true

end Sys2Proof
end

