-- ==== Sys2Proof/Decode.lean ====
section
/-! DEFINITION. The decoder, total on any bytes (30_encoding.md R80), and after it the encoder. Opcode tables: R84, R86,
R87; operand formats: R85; postbytes: R97, R98, R109. -/

namespace Sys2Proof

/-- The five bytes from `pc` on: no instruction is longer (30_encoding.md R81). -/
structure Window where
  b0 : Byte
  b1 : Byte
  b2 : Byte
  b3 : Byte
  b4 : Byte
  deriving DecidableEq, Repr

/-- The first five bytes of a list, $00 where it has fewer. -/
def Window.ofList (bs : List Byte) : Window :=
  ⟨bs.getD 0 0, bs.getD 1 0, bs.getD 2 0, bs.getD 3 0, bs.getD 4 0⟩

/-- What the decoder answers: the four cases (a) to (d) of 30_encoding.md R80. -/
inductive Decoded where
  | instr (i : Instr) (len : Nat)           -- an instruction and its length in bytes
  | illegalOpcode (bytes : List Byte)       -- an unused opcode, with its prefix if it has one (R120, R123)
  | illegalPostbyte (pb : Byte)             -- an illegal indexed postbyte (R121)
  | undefinedRegisterCode (pb : Byte)       -- an EXG or TFR postbyte without a meaning (R122)
  deriving DecidableEq, Repr

/-- How many bytes decide a decoding: an instruction's length, an unused opcode's with its prefix; a postbyte is refused when
it is there. -/
def Decoded.size : Decoded → Nat
  | .instr _ n => n
  | .illegalOpcode bytes => bytes.length
  | .illegalPostbyte _ => 0
  | .undefinedRegisterCode _ => 0

/-- The operand format of an opcode (30_encoding.md R85), with the instruction it makes of the operand. -/
inductive Format where
  | inherent (i : Instr)
  | immediate8 (f : Byte → Instr)
  | immediate16 (f : Word → Instr)
  | direct (f : Byte → Instr)
  | extended (f : Word → Instr)
  | indexed (f : Idx → Instr)
  | relative8 (f : Byte → Instr)
  | relative16 (f : Word → Instr)
  | registers (f : XReg → XReg → Instr)
  | registerList (f : RegList → Instr)

/-- The page-1 opcode map (30_encoding.md R84); `none` is an unused opcode (R90) or a page prefix (R82). -/
def page1 : Nat → Option Format
  | 0x00 => some (.direct .negDir)
  | 0x03 => some (.direct .comDir)
  | 0x04 => some (.direct .lsrDir)
  | 0x06 => some (.direct .rorDir)
  | 0x07 => some (.direct .asrDir)
  | 0x08 => some (.direct .aslDir)
  | 0x09 => some (.direct .rolDir)
  | 0x0A => some (.direct .decDir)
  | 0x0C => some (.direct .incDir)
  | 0x0D => some (.direct .tstDir)
  | 0x0E => some (.direct .jmpDir)
  | 0x0F => some (.direct .clrDir)
  | 0x12 => some (.inherent .nop)
  | 0x13 => some (.inherent .sync)
  | 0x16 => some (.relative16 .lbra)
  | 0x17 => some (.relative16 .lbsr)
  | 0x19 => some (.inherent .daa)
  | 0x1A => some (.immediate8 .orcc)
  | 0x1C => some (.immediate8 .andcc)
  | 0x1D => some (.inherent .sex)
  | 0x1E => some (.registers .exg)
  | 0x1F => some (.registers .tfr)
  | 0x20 => some (.relative8 .bra)
  | 0x21 => some (.relative8 .brn)
  | 0x22 => some (.relative8 .bhi)
  | 0x23 => some (.relative8 .bls)
  | 0x24 => some (.relative8 .bcc)
  | 0x25 => some (.relative8 .bcs)
  | 0x26 => some (.relative8 .bne)
  | 0x27 => some (.relative8 .beq)
  | 0x28 => some (.relative8 .bvc)
  | 0x29 => some (.relative8 .bvs)
  | 0x2A => some (.relative8 .bpl)
  | 0x2B => some (.relative8 .bmi)
  | 0x2C => some (.relative8 .bge)
  | 0x2D => some (.relative8 .blt)
  | 0x2E => some (.relative8 .bgt)
  | 0x2F => some (.relative8 .ble)
  | 0x30 => some (.indexed .leax)
  | 0x31 => some (.indexed .leay)
  | 0x32 => some (.indexed .leas)
  | 0x33 => some (.indexed .leau)
  | 0x34 => some (.registerList .pshs)
  | 0x35 => some (.registerList .puls)
  | 0x36 => some (.registerList .pshu)
  | 0x37 => some (.registerList .pulu)
  | 0x39 => some (.inherent .rts)
  | 0x3A => some (.inherent .abx)
  | 0x3B => some (.inherent .rti)
  | 0x3C => some (.immediate8 .cwai)
  | 0x3D => some (.inherent .mul)
  | 0x3F => some (.inherent .swi)
  | 0x40 => some (.inherent .nega)
  | 0x43 => some (.inherent .coma)
  | 0x44 => some (.inherent .lsra)
  | 0x46 => some (.inherent .rora)
  | 0x47 => some (.inherent .asra)
  | 0x48 => some (.inherent .asla)
  | 0x49 => some (.inherent .rola)
  | 0x4A => some (.inherent .deca)
  | 0x4C => some (.inherent .inca)
  | 0x4D => some (.inherent .tsta)
  | 0x4F => some (.inherent .clra)
  | 0x50 => some (.inherent .negb)
  | 0x53 => some (.inherent .comb)
  | 0x54 => some (.inherent .lsrb)
  | 0x56 => some (.inherent .rorb)
  | 0x57 => some (.inherent .asrb)
  | 0x58 => some (.inherent .aslb)
  | 0x59 => some (.inherent .rolb)
  | 0x5A => some (.inherent .decb)
  | 0x5C => some (.inherent .incb)
  | 0x5D => some (.inherent .tstb)
  | 0x5F => some (.inherent .clrb)
  | 0x60 => some (.indexed .negIdx)
  | 0x63 => some (.indexed .comIdx)
  | 0x64 => some (.indexed .lsrIdx)
  | 0x66 => some (.indexed .rorIdx)
  | 0x67 => some (.indexed .asrIdx)
  | 0x68 => some (.indexed .aslIdx)
  | 0x69 => some (.indexed .rolIdx)
  | 0x6A => some (.indexed .decIdx)
  | 0x6C => some (.indexed .incIdx)
  | 0x6D => some (.indexed .tstIdx)
  | 0x6E => some (.indexed .jmpIdx)
  | 0x6F => some (.indexed .clrIdx)
  | 0x70 => some (.extended .negExt)
  | 0x73 => some (.extended .comExt)
  | 0x74 => some (.extended .lsrExt)
  | 0x76 => some (.extended .rorExt)
  | 0x77 => some (.extended .asrExt)
  | 0x78 => some (.extended .aslExt)
  | 0x79 => some (.extended .rolExt)
  | 0x7A => some (.extended .decExt)
  | 0x7C => some (.extended .incExt)
  | 0x7D => some (.extended .tstExt)
  | 0x7E => some (.extended .jmpExt)
  | 0x7F => some (.extended .clrExt)
  | 0x80 => some (.immediate8 .subaImm)
  | 0x81 => some (.immediate8 .cmpaImm)
  | 0x82 => some (.immediate8 .sbcaImm)
  | 0x83 => some (.immediate16 .subdImm)
  | 0x84 => some (.immediate8 .andaImm)
  | 0x85 => some (.immediate8 .bitaImm)
  | 0x86 => some (.immediate8 .ldaImm)
  | 0x88 => some (.immediate8 .eoraImm)
  | 0x89 => some (.immediate8 .adcaImm)
  | 0x8A => some (.immediate8 .oraImm)
  | 0x8B => some (.immediate8 .addaImm)
  | 0x8C => some (.immediate16 .cmpxImm)
  | 0x8D => some (.relative8 .bsr)
  | 0x8E => some (.immediate16 .ldxImm)
  | 0x90 => some (.direct .subaDir)
  | 0x91 => some (.direct .cmpaDir)
  | 0x92 => some (.direct .sbcaDir)
  | 0x93 => some (.direct .subdDir)
  | 0x94 => some (.direct .andaDir)
  | 0x95 => some (.direct .bitaDir)
  | 0x96 => some (.direct .ldaDir)
  | 0x97 => some (.direct .staDir)
  | 0x98 => some (.direct .eoraDir)
  | 0x99 => some (.direct .adcaDir)
  | 0x9A => some (.direct .oraDir)
  | 0x9B => some (.direct .addaDir)
  | 0x9C => some (.direct .cmpxDir)
  | 0x9D => some (.direct .jsrDir)
  | 0x9E => some (.direct .ldxDir)
  | 0x9F => some (.direct .stxDir)
  | 0xA0 => some (.indexed .subaIdx)
  | 0xA1 => some (.indexed .cmpaIdx)
  | 0xA2 => some (.indexed .sbcaIdx)
  | 0xA3 => some (.indexed .subdIdx)
  | 0xA4 => some (.indexed .andaIdx)
  | 0xA5 => some (.indexed .bitaIdx)
  | 0xA6 => some (.indexed .ldaIdx)
  | 0xA7 => some (.indexed .staIdx)
  | 0xA8 => some (.indexed .eoraIdx)
  | 0xA9 => some (.indexed .adcaIdx)
  | 0xAA => some (.indexed .oraIdx)
  | 0xAB => some (.indexed .addaIdx)
  | 0xAC => some (.indexed .cmpxIdx)
  | 0xAD => some (.indexed .jsrIdx)
  | 0xAE => some (.indexed .ldxIdx)
  | 0xAF => some (.indexed .stxIdx)
  | 0xB0 => some (.extended .subaExt)
  | 0xB1 => some (.extended .cmpaExt)
  | 0xB2 => some (.extended .sbcaExt)
  | 0xB3 => some (.extended .subdExt)
  | 0xB4 => some (.extended .andaExt)
  | 0xB5 => some (.extended .bitaExt)
  | 0xB6 => some (.extended .ldaExt)
  | 0xB7 => some (.extended .staExt)
  | 0xB8 => some (.extended .eoraExt)
  | 0xB9 => some (.extended .adcaExt)
  | 0xBA => some (.extended .oraExt)
  | 0xBB => some (.extended .addaExt)
  | 0xBC => some (.extended .cmpxExt)
  | 0xBD => some (.extended .jsrExt)
  | 0xBE => some (.extended .ldxExt)
  | 0xBF => some (.extended .stxExt)
  | 0xC0 => some (.immediate8 .subbImm)
  | 0xC1 => some (.immediate8 .cmpbImm)
  | 0xC2 => some (.immediate8 .sbcbImm)
  | 0xC3 => some (.immediate16 .adddImm)
  | 0xC4 => some (.immediate8 .andbImm)
  | 0xC5 => some (.immediate8 .bitbImm)
  | 0xC6 => some (.immediate8 .ldbImm)
  | 0xC8 => some (.immediate8 .eorbImm)
  | 0xC9 => some (.immediate8 .adcbImm)
  | 0xCA => some (.immediate8 .orbImm)
  | 0xCB => some (.immediate8 .addbImm)
  | 0xCC => some (.immediate16 .lddImm)
  | 0xCE => some (.immediate16 .lduImm)
  | 0xD0 => some (.direct .subbDir)
  | 0xD1 => some (.direct .cmpbDir)
  | 0xD2 => some (.direct .sbcbDir)
  | 0xD3 => some (.direct .adddDir)
  | 0xD4 => some (.direct .andbDir)
  | 0xD5 => some (.direct .bitbDir)
  | 0xD6 => some (.direct .ldbDir)
  | 0xD7 => some (.direct .stbDir)
  | 0xD8 => some (.direct .eorbDir)
  | 0xD9 => some (.direct .adcbDir)
  | 0xDA => some (.direct .orbDir)
  | 0xDB => some (.direct .addbDir)
  | 0xDC => some (.direct .lddDir)
  | 0xDD => some (.direct .stdDir)
  | 0xDE => some (.direct .lduDir)
  | 0xDF => some (.direct .stuDir)
  | 0xE0 => some (.indexed .subbIdx)
  | 0xE1 => some (.indexed .cmpbIdx)
  | 0xE2 => some (.indexed .sbcbIdx)
  | 0xE3 => some (.indexed .adddIdx)
  | 0xE4 => some (.indexed .andbIdx)
  | 0xE5 => some (.indexed .bitbIdx)
  | 0xE6 => some (.indexed .ldbIdx)
  | 0xE7 => some (.indexed .stbIdx)
  | 0xE8 => some (.indexed .eorbIdx)
  | 0xE9 => some (.indexed .adcbIdx)
  | 0xEA => some (.indexed .orbIdx)
  | 0xEB => some (.indexed .addbIdx)
  | 0xEC => some (.indexed .lddIdx)
  | 0xED => some (.indexed .stdIdx)
  | 0xEE => some (.indexed .lduIdx)
  | 0xEF => some (.indexed .stuIdx)
  | 0xF0 => some (.extended .subbExt)
  | 0xF1 => some (.extended .cmpbExt)
  | 0xF2 => some (.extended .sbcbExt)
  | 0xF3 => some (.extended .adddExt)
  | 0xF4 => some (.extended .andbExt)
  | 0xF5 => some (.extended .bitbExt)
  | 0xF6 => some (.extended .ldbExt)
  | 0xF7 => some (.extended .stbExt)
  | 0xF8 => some (.extended .eorbExt)
  | 0xF9 => some (.extended .adcbExt)
  | 0xFA => some (.extended .orbExt)
  | 0xFB => some (.extended .addbExt)
  | 0xFC => some (.extended .lddExt)
  | 0xFD => some (.extended .stdExt)
  | 0xFE => some (.extended .lduExt)
  | 0xFF => some (.extended .stuExt)
  | _ => none

/-- The page-2 opcode map: the byte after the prefix $10 (30_encoding.md R86). -/
def page2 : Nat → Option Format
  | 0x21 => some (.relative16 .lbrn)
  | 0x22 => some (.relative16 .lbhi)
  | 0x23 => some (.relative16 .lbls)
  | 0x24 => some (.relative16 .lbcc)
  | 0x25 => some (.relative16 .lbcs)
  | 0x26 => some (.relative16 .lbne)
  | 0x27 => some (.relative16 .lbeq)
  | 0x28 => some (.relative16 .lbvc)
  | 0x29 => some (.relative16 .lbvs)
  | 0x2A => some (.relative16 .lbpl)
  | 0x2B => some (.relative16 .lbmi)
  | 0x2C => some (.relative16 .lbge)
  | 0x2D => some (.relative16 .lblt)
  | 0x2E => some (.relative16 .lbgt)
  | 0x2F => some (.relative16 .lble)
  | 0x3F => some (.inherent .swi2)
  | 0x83 => some (.immediate16 .cmpdImm)
  | 0x8C => some (.immediate16 .cmpyImm)
  | 0x8E => some (.immediate16 .ldyImm)
  | 0x93 => some (.direct .cmpdDir)
  | 0x9C => some (.direct .cmpyDir)
  | 0x9E => some (.direct .ldyDir)
  | 0x9F => some (.direct .styDir)
  | 0xA3 => some (.indexed .cmpdIdx)
  | 0xAC => some (.indexed .cmpyIdx)
  | 0xAE => some (.indexed .ldyIdx)
  | 0xAF => some (.indexed .styIdx)
  | 0xB3 => some (.extended .cmpdExt)
  | 0xBC => some (.extended .cmpyExt)
  | 0xBE => some (.extended .ldyExt)
  | 0xBF => some (.extended .styExt)
  | 0xCE => some (.immediate16 .ldsImm)
  | 0xDE => some (.direct .ldsDir)
  | 0xDF => some (.direct .stsDir)
  | 0xEE => some (.indexed .ldsIdx)
  | 0xEF => some (.indexed .stsIdx)
  | 0xFE => some (.extended .ldsExt)
  | 0xFF => some (.extended .stsExt)
  | _ => none

/-- The page-3 opcode map: the byte after the prefix $11 (30_encoding.md R87). -/
def page3 : Nat → Option Format
  | 0x3F => some (.inherent .swi3)
  | 0x83 => some (.immediate16 .cmpuImm)
  | 0x8C => some (.immediate16 .cmpsImm)
  | 0x93 => some (.direct .cmpuDir)
  | 0x9C => some (.direct .cmpsDir)
  | 0xA3 => some (.indexed .cmpuIdx)
  | 0xAC => some (.indexed .cmpsIdx)
  | 0xB3 => some (.extended .cmpuExt)
  | 0xBC => some (.extended .cmpsExt)
  | _ => none

/-- The pointer register of `pb[6:5]` (30_encoding.md R99). -/
def ptrOfCode (c : BitVec 2) : Ptr :=
  match c.toNat with
  | 0 => .x
  | 1 => .y
  | 2 => .u
  | _ => .s

/-- The register of an EXG or TFR nibble; `none` is an undefined code (30_encoding.md R97). -/
def xregOfCode (c : BitVec 4) : Option XReg :=
  match c.toNat with
  | 0x0 => some .d
  | 0x1 => some .x
  | 0x2 => some .y
  | 0x3 => some .u
  | 0x4 => some .s
  | 0x5 => some .pc
  | 0x8 => some .a
  | 0x9 => some .b
  | 0xA => some .cc
  | 0xB => some .dp
  | _ => none

/-- The two registers of an EXG or TFR postbyte, if both codes are defined and the widths agree
(30_encoding.md R97, R122). -/
def decodeRegisters (pb : Byte) : Option (XReg × XReg) :=
  match xregOfCode (pb.extractLsb' 4 4), xregOfCode (pb.extractLsb' 0 4) with
  | some r1, some r2 => if r1.is8 == r2.is8 then some (r1, r2) else none
  | _, _ => none

/-- The registers a PSH or PUL postbyte selects; every value is legal (30_encoding.md R98). -/
def decodeRegisterList (pb : Byte) : RegList :=
  ⟨pb.getLsbD 7, pb.getLsbD 6, pb.getLsbD 5, pb.getLsbD 4, pb.getLsbD 3, pb.getLsbD 2, pb.getLsbD 1, pb.getLsbD 0⟩

/-- The indexed operand of a postbyte and the two bytes after it, with the number `k` of those bytes it uses;
`none` is an illegal postbyte (30_encoding.md R109, R121). -/
def decodeIdx (pb o1 o2 : Byte) : Option (Idx × Nat) :=
  let r := ptrOfCode (pb.extractLsb' 5 2)
  let i := pb.getLsbD 4
  if pb.getLsbD 7 then
    match (pb.extractLsb' 0 4).toNat with
    | 0x0 => if i then none else some (.inc1 r, 0)
    | 0x1 => some (.inc2 r i, 0)
    | 0x2 => if i then none else some (.dec1 r, 0)
    | 0x3 => some (.dec2 r i, 0)
    | 0x4 => some (.zero r i, 0)
    | 0x5 => some (.accB r i, 0)
    | 0x6 => some (.accA r i, 0)
    | 0x8 => some (.off8 r i o1, 1)
    | 0x9 => some (.off16 r i (word o1 o2), 2)
    | 0xB => some (.accD r i, 0)
    | 0xC => some (.pcr8 i o1, 1)
    | 0xD => some (.pcr16 i (word o1 o2), 2)
    | 0xF => if pb = 0x9F#8 then some (.extInd (word o1 o2), 2) else none
    | _ => none
  else some (.off5 r (pb.extractLsb' 0 5), 0)

/-- The operands of an opcode `n` bytes long (its prefix counted) from the three bytes after it: the operand bytes of each
format (30_encoding.md R85, R89, R112). -/
def decodeOperands (f : Format) (n : Nat) (o0 o1 o2 : Byte) : Decoded :=
  match f with
  | .inherent i => .instr i n
  | .immediate8 g => .instr (g o0) (n + 1)
  | .immediate16 g => .instr (g (word o0 o1)) (n + 2)
  | .direct g => .instr (g o0) (n + 1)
  | .extended g => .instr (g (word o0 o1)) (n + 2)
  | .relative8 g => .instr (g o0) (n + 1)
  | .relative16 g => .instr (g (word o0 o1)) (n + 2)
  | .registerList g => .instr (g (decodeRegisterList o0)) (n + 1)
  | .registers g =>
    match decodeRegisters o0 with
    | some (r1, r2) => .instr (g r1 r2) (n + 1)
    | none => .undefinedRegisterCode o0
  | .indexed g =>
    match decodeIdx o0 o1 o2 with
    | some (ix, k) => .instr (g ix) (n + 1 + k)
    | none => .illegalPostbyte o0

/-- The instruction whose bytes stand in the window (30_encoding.md R80, R91). -/
def decode (w : Window) : Decoded :=
  if w.b0 = 0x10#8 then
    match page2 w.b1.toNat with
    | some f => decodeOperands f 2 w.b2 w.b3 w.b4
    | none => .illegalOpcode [w.b0, w.b1]
  else if w.b0 = 0x11#8 then
    match page3 w.b1.toNat with
    | some f => decodeOperands f 2 w.b2 w.b3 w.b4
    | none => .illegalOpcode [w.b0, w.b1]
  else
    match page1 w.b0.toNat with
    | some f => decodeOperands f 1 w.b1 w.b2 w.b3
    | none => .illegalOpcode [w.b0]

/-- `n` bytes of the number `w`, bits 7..0 first. -/
def bytesLowFirst : Nat → Nat → List Byte
  | 0, _ => []
  | n + 1, w => BitVec.ofNat 8 w :: bytesLowFirst n (w / 256)

/-- Whether a byte is one of the two page prefixes (30_encoding.md R82). -/
def isPrefix (b : Byte) : Bool := b == 0x10#8 || b == 0x11#8

/-- The bytes of a word of the opcode table, in memory order. Bits 7..0 are the first byte; but the table prints the
prefix of a page-2 or page-3 row as the more significant byte (30_encoding.md R92), so where bits 7..0 are no prefix
and the most significant byte is one, the most significant byte is the first (log entry 20). -/
def tableBytes (nbits w : Nat) : List Byte :=
  let low := bytesLowFirst ((nbits + 7) / 8) w
  if isPrefix (low.headD 0) then low
  else if isPrefix (low.getLastD 0) then low.reverse
  else low

/-- The instruction the decoder reads from a word of the opcode table, operand bytes beyond its bits being $00. -/
def decodeTableWord (nbits w : Nat) : Option Instr :=
  match decode (Window.ofList (tableBytes nbits w)) with
  | .instr i _ => some i
  | .illegalOpcode _ => none
  | .illegalPostbyte _ => none
  | .undefinedRegisterCode _ => none

/-- The code of a pointer register, `pb[6:5]` (30_encoding.md R99). -/
def ptrCode : Ptr → BitVec 2
  | .x => 0
  | .y => 1
  | .u => 2
  | .s => 3

/-- The code of an EXG or TFR register (30_encoding.md R97). -/
def xregCode : XReg → BitVec 4
  | .d => 0x0
  | .x => 0x1
  | .y => 0x2
  | .u => 0x3
  | .s => 0x4
  | .pc => 0x5
  | .a => 0x8
  | .b => 0x9
  | .cc => 0xA
  | .dp => 0xB

/-- The EXG or TFR postbyte: the first register in bits 7 to 4 (30_encoding.md R97). -/
def registersByte (r1 r2 : XReg) : Byte := xregCode r1 ++ xregCode r2

/-- The PSH or PUL postbyte (30_encoding.md R98). -/
def registerListByte (l : RegList) : Byte :=
  BitVec.ofBool l.pc ++ BitVec.ofBool l.other ++ BitVec.ofBool l.y ++ BitVec.ofBool l.x ++
    BitVec.ofBool l.dp ++ BitVec.ofBool l.b ++ BitVec.ofBool l.a ++ BitVec.ofBool l.cc

/-- The indexed postbyte `1RRimmmm` (30_encoding.md R99). -/
def idxByte (r : Ptr) (i : Bool) (m : BitVec 4) : Byte := 1#1 ++ ptrCode r ++ BitVec.ofBool i ++ m

/-- The postbyte and offset bytes of an indexed operand (30_encoding.md R109). -/
def encodeIdx : Idx → List Byte
  | .off5 r n => [0#1 ++ ptrCode r ++ n]
  | .zero r i => [idxByte r i 0x4]
  | .off8 r i n => [idxByte r i 0x8, n]
  | .off16 r i n => [idxByte r i 0x9, hiByte n, loByte n]
  | .accA r i => [idxByte r i 0x6]
  | .accB r i => [idxByte r i 0x5]
  | .accD r i => [idxByte r i 0xB]
  | .inc1 r => [idxByte r false 0x0]
  | .inc2 r i => [idxByte r i 0x1]
  | .dec1 r => [idxByte r false 0x2]
  | .dec2 r i => [idxByte r i 0x3]
  | .pcr8 i n => [idxByte .x i 0xC, n]
  | .pcr16 i n => [idxByte .x i 0xD, hiByte n, loByte n]
  | .extInd a => [0x9F, hiByte a, loByte a]

/-- The bytes of an instruction, in memory order (30_encoding.md R84, R86, R87). -/
def encode : Instr → List Byte
  | .negDir d => [0x00, d]
  | .comDir d => [0x03, d]
  | .lsrDir d => [0x04, d]
  | .rorDir d => [0x06, d]
  | .asrDir d => [0x07, d]
  | .aslDir d => [0x08, d]
  | .rolDir d => [0x09, d]
  | .decDir d => [0x0A, d]
  | .incDir d => [0x0C, d]
  | .tstDir d => [0x0D, d]
  | .jmpDir d => [0x0E, d]
  | .clrDir d => [0x0F, d]
  | .lbra o => [0x16, hiByte o, loByte o]
  | .lbsr o => [0x17, hiByte o, loByte o]
  | .orcc m => [0x1A, m]
  | .andcc m => [0x1C, m]
  | .exg r1 r2 => [0x1E, registersByte r1 r2]
  | .tfr r1 r2 => [0x1F, registersByte r1 r2]
  | .bra o => [0x20, o]
  | .brn o => [0x21, o]
  | .bhi o => [0x22, o]
  | .bls o => [0x23, o]
  | .bcc o => [0x24, o]
  | .bcs o => [0x25, o]
  | .bne o => [0x26, o]
  | .beq o => [0x27, o]
  | .bvc o => [0x28, o]
  | .bvs o => [0x29, o]
  | .bpl o => [0x2A, o]
  | .bmi o => [0x2B, o]
  | .bge o => [0x2C, o]
  | .blt o => [0x2D, o]
  | .bgt o => [0x2E, o]
  | .ble o => [0x2F, o]
  | .leax ix => 0x30 :: encodeIdx ix
  | .leay ix => 0x31 :: encodeIdx ix
  | .leas ix => 0x32 :: encodeIdx ix
  | .leau ix => 0x33 :: encodeIdx ix
  | .pshs l => [0x34, registerListByte l]
  | .puls l => [0x35, registerListByte l]
  | .pshu l => [0x36, registerListByte l]
  | .pulu l => [0x37, registerListByte l]
  | .cwai m => [0x3C, m]
  | .negIdx ix => 0x60 :: encodeIdx ix
  | .comIdx ix => 0x63 :: encodeIdx ix
  | .lsrIdx ix => 0x64 :: encodeIdx ix
  | .rorIdx ix => 0x66 :: encodeIdx ix
  | .asrIdx ix => 0x67 :: encodeIdx ix
  | .aslIdx ix => 0x68 :: encodeIdx ix
  | .rolIdx ix => 0x69 :: encodeIdx ix
  | .decIdx ix => 0x6A :: encodeIdx ix
  | .incIdx ix => 0x6C :: encodeIdx ix
  | .tstIdx ix => 0x6D :: encodeIdx ix
  | .jmpIdx ix => 0x6E :: encodeIdx ix
  | .clrIdx ix => 0x6F :: encodeIdx ix
  | .negExt a => [0x70, hiByte a, loByte a]
  | .comExt a => [0x73, hiByte a, loByte a]
  | .lsrExt a => [0x74, hiByte a, loByte a]
  | .rorExt a => [0x76, hiByte a, loByte a]
  | .asrExt a => [0x77, hiByte a, loByte a]
  | .aslExt a => [0x78, hiByte a, loByte a]
  | .rolExt a => [0x79, hiByte a, loByte a]
  | .decExt a => [0x7A, hiByte a, loByte a]
  | .incExt a => [0x7C, hiByte a, loByte a]
  | .tstExt a => [0x7D, hiByte a, loByte a]
  | .jmpExt a => [0x7E, hiByte a, loByte a]
  | .clrExt a => [0x7F, hiByte a, loByte a]
  | .subaImm m => [0x80, m]
  | .cmpaImm m => [0x81, m]
  | .sbcaImm m => [0x82, m]
  | .subdImm m => [0x83, hiByte m, loByte m]
  | .andaImm m => [0x84, m]
  | .bitaImm m => [0x85, m]
  | .ldaImm m => [0x86, m]
  | .eoraImm m => [0x88, m]
  | .adcaImm m => [0x89, m]
  | .oraImm m => [0x8A, m]
  | .addaImm m => [0x8B, m]
  | .cmpxImm m => [0x8C, hiByte m, loByte m]
  | .bsr o => [0x8D, o]
  | .ldxImm m => [0x8E, hiByte m, loByte m]
  | .subaDir d => [0x90, d]
  | .cmpaDir d => [0x91, d]
  | .sbcaDir d => [0x92, d]
  | .subdDir d => [0x93, d]
  | .andaDir d => [0x94, d]
  | .bitaDir d => [0x95, d]
  | .ldaDir d => [0x96, d]
  | .staDir d => [0x97, d]
  | .eoraDir d => [0x98, d]
  | .adcaDir d => [0x99, d]
  | .oraDir d => [0x9A, d]
  | .addaDir d => [0x9B, d]
  | .cmpxDir d => [0x9C, d]
  | .jsrDir d => [0x9D, d]
  | .ldxDir d => [0x9E, d]
  | .stxDir d => [0x9F, d]
  | .subaIdx ix => 0xA0 :: encodeIdx ix
  | .cmpaIdx ix => 0xA1 :: encodeIdx ix
  | .sbcaIdx ix => 0xA2 :: encodeIdx ix
  | .subdIdx ix => 0xA3 :: encodeIdx ix
  | .andaIdx ix => 0xA4 :: encodeIdx ix
  | .bitaIdx ix => 0xA5 :: encodeIdx ix
  | .ldaIdx ix => 0xA6 :: encodeIdx ix
  | .staIdx ix => 0xA7 :: encodeIdx ix
  | .eoraIdx ix => 0xA8 :: encodeIdx ix
  | .adcaIdx ix => 0xA9 :: encodeIdx ix
  | .oraIdx ix => 0xAA :: encodeIdx ix
  | .addaIdx ix => 0xAB :: encodeIdx ix
  | .cmpxIdx ix => 0xAC :: encodeIdx ix
  | .jsrIdx ix => 0xAD :: encodeIdx ix
  | .ldxIdx ix => 0xAE :: encodeIdx ix
  | .stxIdx ix => 0xAF :: encodeIdx ix
  | .subaExt a => [0xB0, hiByte a, loByte a]
  | .cmpaExt a => [0xB1, hiByte a, loByte a]
  | .sbcaExt a => [0xB2, hiByte a, loByte a]
  | .subdExt a => [0xB3, hiByte a, loByte a]
  | .andaExt a => [0xB4, hiByte a, loByte a]
  | .bitaExt a => [0xB5, hiByte a, loByte a]
  | .ldaExt a => [0xB6, hiByte a, loByte a]
  | .staExt a => [0xB7, hiByte a, loByte a]
  | .eoraExt a => [0xB8, hiByte a, loByte a]
  | .adcaExt a => [0xB9, hiByte a, loByte a]
  | .oraExt a => [0xBA, hiByte a, loByte a]
  | .addaExt a => [0xBB, hiByte a, loByte a]
  | .cmpxExt a => [0xBC, hiByte a, loByte a]
  | .jsrExt a => [0xBD, hiByte a, loByte a]
  | .ldxExt a => [0xBE, hiByte a, loByte a]
  | .stxExt a => [0xBF, hiByte a, loByte a]
  | .subbImm m => [0xC0, m]
  | .cmpbImm m => [0xC1, m]
  | .sbcbImm m => [0xC2, m]
  | .adddImm m => [0xC3, hiByte m, loByte m]
  | .andbImm m => [0xC4, m]
  | .bitbImm m => [0xC5, m]
  | .ldbImm m => [0xC6, m]
  | .eorbImm m => [0xC8, m]
  | .adcbImm m => [0xC9, m]
  | .orbImm m => [0xCA, m]
  | .addbImm m => [0xCB, m]
  | .lddImm m => [0xCC, hiByte m, loByte m]
  | .lduImm m => [0xCE, hiByte m, loByte m]
  | .subbDir d => [0xD0, d]
  | .cmpbDir d => [0xD1, d]
  | .sbcbDir d => [0xD2, d]
  | .adddDir d => [0xD3, d]
  | .andbDir d => [0xD4, d]
  | .bitbDir d => [0xD5, d]
  | .ldbDir d => [0xD6, d]
  | .stbDir d => [0xD7, d]
  | .eorbDir d => [0xD8, d]
  | .adcbDir d => [0xD9, d]
  | .orbDir d => [0xDA, d]
  | .addbDir d => [0xDB, d]
  | .lddDir d => [0xDC, d]
  | .stdDir d => [0xDD, d]
  | .lduDir d => [0xDE, d]
  | .stuDir d => [0xDF, d]
  | .subbIdx ix => 0xE0 :: encodeIdx ix
  | .cmpbIdx ix => 0xE1 :: encodeIdx ix
  | .sbcbIdx ix => 0xE2 :: encodeIdx ix
  | .adddIdx ix => 0xE3 :: encodeIdx ix
  | .andbIdx ix => 0xE4 :: encodeIdx ix
  | .bitbIdx ix => 0xE5 :: encodeIdx ix
  | .ldbIdx ix => 0xE6 :: encodeIdx ix
  | .stbIdx ix => 0xE7 :: encodeIdx ix
  | .eorbIdx ix => 0xE8 :: encodeIdx ix
  | .adcbIdx ix => 0xE9 :: encodeIdx ix
  | .orbIdx ix => 0xEA :: encodeIdx ix
  | .addbIdx ix => 0xEB :: encodeIdx ix
  | .lddIdx ix => 0xEC :: encodeIdx ix
  | .stdIdx ix => 0xED :: encodeIdx ix
  | .lduIdx ix => 0xEE :: encodeIdx ix
  | .stuIdx ix => 0xEF :: encodeIdx ix
  | .subbExt a => [0xF0, hiByte a, loByte a]
  | .cmpbExt a => [0xF1, hiByte a, loByte a]
  | .sbcbExt a => [0xF2, hiByte a, loByte a]
  | .adddExt a => [0xF3, hiByte a, loByte a]
  | .andbExt a => [0xF4, hiByte a, loByte a]
  | .bitbExt a => [0xF5, hiByte a, loByte a]
  | .ldbExt a => [0xF6, hiByte a, loByte a]
  | .stbExt a => [0xF7, hiByte a, loByte a]
  | .eorbExt a => [0xF8, hiByte a, loByte a]
  | .adcbExt a => [0xF9, hiByte a, loByte a]
  | .orbExt a => [0xFA, hiByte a, loByte a]
  | .addbExt a => [0xFB, hiByte a, loByte a]
  | .lddExt a => [0xFC, hiByte a, loByte a]
  | .stdExt a => [0xFD, hiByte a, loByte a]
  | .lduExt a => [0xFE, hiByte a, loByte a]
  | .stuExt a => [0xFF, hiByte a, loByte a]
  | .lbrn o => [0x10, 0x21, hiByte o, loByte o]
  | .lbhi o => [0x10, 0x22, hiByte o, loByte o]
  | .lbls o => [0x10, 0x23, hiByte o, loByte o]
  | .lbcc o => [0x10, 0x24, hiByte o, loByte o]
  | .lbcs o => [0x10, 0x25, hiByte o, loByte o]
  | .lbne o => [0x10, 0x26, hiByte o, loByte o]
  | .lbeq o => [0x10, 0x27, hiByte o, loByte o]
  | .lbvc o => [0x10, 0x28, hiByte o, loByte o]
  | .lbvs o => [0x10, 0x29, hiByte o, loByte o]
  | .lbpl o => [0x10, 0x2A, hiByte o, loByte o]
  | .lbmi o => [0x10, 0x2B, hiByte o, loByte o]
  | .lbge o => [0x10, 0x2C, hiByte o, loByte o]
  | .lblt o => [0x10, 0x2D, hiByte o, loByte o]
  | .lbgt o => [0x10, 0x2E, hiByte o, loByte o]
  | .lble o => [0x10, 0x2F, hiByte o, loByte o]
  | .cmpdImm m => [0x10, 0x83, hiByte m, loByte m]
  | .cmpyImm m => [0x10, 0x8C, hiByte m, loByte m]
  | .ldyImm m => [0x10, 0x8E, hiByte m, loByte m]
  | .cmpdDir d => [0x10, 0x93, d]
  | .cmpyDir d => [0x10, 0x9C, d]
  | .ldyDir d => [0x10, 0x9E, d]
  | .styDir d => [0x10, 0x9F, d]
  | .cmpdIdx ix => 0x10 :: 0xA3 :: encodeIdx ix
  | .cmpyIdx ix => 0x10 :: 0xAC :: encodeIdx ix
  | .ldyIdx ix => 0x10 :: 0xAE :: encodeIdx ix
  | .styIdx ix => 0x10 :: 0xAF :: encodeIdx ix
  | .cmpdExt a => [0x10, 0xB3, hiByte a, loByte a]
  | .cmpyExt a => [0x10, 0xBC, hiByte a, loByte a]
  | .ldyExt a => [0x10, 0xBE, hiByte a, loByte a]
  | .styExt a => [0x10, 0xBF, hiByte a, loByte a]
  | .ldsImm m => [0x10, 0xCE, hiByte m, loByte m]
  | .ldsDir d => [0x10, 0xDE, d]
  | .stsDir d => [0x10, 0xDF, d]
  | .ldsIdx ix => 0x10 :: 0xEE :: encodeIdx ix
  | .stsIdx ix => 0x10 :: 0xEF :: encodeIdx ix
  | .ldsExt a => [0x10, 0xFE, hiByte a, loByte a]
  | .stsExt a => [0x10, 0xFF, hiByte a, loByte a]
  | .cmpuImm m => [0x11, 0x83, hiByte m, loByte m]
  | .cmpsImm m => [0x11, 0x8C, hiByte m, loByte m]
  | .cmpuDir d => [0x11, 0x93, d]
  | .cmpsDir d => [0x11, 0x9C, d]
  | .cmpuIdx ix => 0x11 :: 0xA3 :: encodeIdx ix
  | .cmpsIdx ix => 0x11 :: 0xAC :: encodeIdx ix
  | .cmpuExt a => [0x11, 0xB3, hiByte a, loByte a]
  | .cmpsExt a => [0x11, 0xBC, hiByte a, loByte a]
  | .nop => [0x12]
  | .sync => [0x13]
  | .daa => [0x19]
  | .sex => [0x1D]
  | .rts => [0x39]
  | .abx => [0x3A]
  | .rti => [0x3B]
  | .mul => [0x3D]
  | .swi => [0x3F]
  | .nega => [0x40]
  | .coma => [0x43]
  | .lsra => [0x44]
  | .rora => [0x46]
  | .asra => [0x47]
  | .asla => [0x48]
  | .rola => [0x49]
  | .deca => [0x4A]
  | .inca => [0x4C]
  | .tsta => [0x4D]
  | .clra => [0x4F]
  | .negb => [0x50]
  | .comb => [0x53]
  | .lsrb => [0x54]
  | .rorb => [0x56]
  | .asrb => [0x57]
  | .aslb => [0x58]
  | .rolb => [0x59]
  | .decb => [0x5A]
  | .incb => [0x5C]
  | .tstb => [0x5D]
  | .clrb => [0x5F]
  | .swi2 => [0x10, 0x3F]
  | .swi3 => [0x11, 0x3F]

end Sys2Proof
end

