-- ==== Sys2Proof/Machine/Flags.lean ====
section
/-! DEFINITION. The condition codes: the bits of CC, the branch conditions, and every result and flag computation the spec
gives (10_state.md R28 to R42). A computation takes the old CC and answers the new one; `hu` is the undefined H of R34. -/

namespace Sys2Proof.Machine

/-- The bits of CC (10_state.md R28). -/
inductive Flag where
  | c | v | z | n | i | h | f | e
  deriving DecidableEq, Repr

/-- The bit number of a flag (10_state.md R28). -/
def Flag.bit : Flag → Nat
  | .c => 0
  | .v => 1
  | .z => 2
  | .n => 3
  | .i => 4
  | .h => 5
  | .f => 6
  | .e => 7

/-- One flag of CC. -/
def getFlag (cc : Byte) (k : Flag) : Bool := cc.getLsbD k.bit

/-- CC with one flag written. -/
def setFlag (k : Flag) (v : Bool) (cc : Byte) : Byte :=
  if v then cc ||| (1#8 <<< k.bit) else cc &&& ~~~(1#8 <<< k.bit)

/-- The sixteen branch conditions, by opcode low nibble (43_branches.md R295). -/
inductive Cond where
  | always | never | hi | ls | cc | cs | ne | eq | vc | vs | pl | mi | ge | lt | gt | le
  deriving DecidableEq, Repr

/-- Whether a condition holds of CC (10_state.md R42). -/
def Cond.holds (k : Cond) (cc : Byte) : Bool :=
  let c := getFlag cc .c
  let v := getFlag cc .v
  let z := getFlag cc .z
  let n := getFlag cc .n
  match k with
  | .always => true
  | .never => false
  | .hi => !(c || z)
  | .ls => c || z
  | .cc => !c
  | .cs => c
  | .ne => !z
  | .eq => z
  | .vc => !v
  | .vs => v
  | .pl => !n
  | .mi => n
  | .ge => !(n ^^ v)
  | .lt => n ^^ v
  | .gt => !(z || (n ^^ v))
  | .le => z || (n ^^ v)

/-- `setNZ8` (10_state.md R36). -/
def setNZ8 (r cc : Byte) : Byte := setFlag .n r.msb (setFlag .z (r == 0) cc)

/-- `setNZ16` (10_state.md R36). -/
def setNZ16 (r : Word) (cc : Byte) : Byte := setFlag .n r.msb (setFlag .z (r == 0) cc)

/-- A result with its half carry, overflow and carry. -/
structure Sum8 where
  r : Byte
  h : Bool
  v : Bool
  c : Bool
  deriving DecidableEq, Repr

/-- A result of 8 bits with its overflow and its carry or borrow. -/
structure Diff8 where
  r : Byte
  v : Bool
  c : Bool
  deriving DecidableEq, Repr

/-- A result of 16 bits with its overflow and its carry or borrow. -/
structure Res16 where
  r : Word
  v : Bool
  c : Bool
  deriving DecidableEq, Repr

/-- `add8` (10_state.md R37): the exact sum, narrowed at the end. -/
def add8 (a b : Byte) (cin : Bool) : Sum8 :=
  let t := a.toNat + b.toNat + cin.toNat
  let r := BitVec.ofNat 8 t
  { r := r
    h := decide (15 < a.toNat % 16 + b.toNat % 16 + cin.toNat)
    v := a.msb == b.msb && r.msb != a.msb
    c := decide (255 < t) }

/-- `sub8` (10_state.md R38): the exact difference, narrowed at the end. -/
def sub8 (a b : Byte) (bin : Bool) : Diff8 :=
  let t : Int := a.toNat - b.toNat - bin.toNat
  let r := BitVec.ofInt 8 t
  { r := r
    v := a.msb != b.msb && r.msb != a.msb
    c := decide (t < 0) }

/-- `add16` (10_state.md R39). -/
def add16 (a b : Word) : Res16 :=
  let t := a.toNat + b.toNat
  let r := BitVec.ofNat 16 t
  { r := r
    v := a.msb == b.msb && r.msb != a.msb
    c := decide (65535 < t) }

/-- `sub16` (10_state.md R40). -/
def sub16 (a b : Word) : Res16 :=
  let t : Int := a.toNat - b.toNat
  let r := BitVec.ofInt 16 t
  { r := r
    v := a.msb != b.msb && r.msb != a.msb
    c := decide (t < 0) }

/-- `asl8` (10_state.md R41). -/
def asl8 (m : Byte) : Diff8 :=
  { r := m <<< 1, v := m.getLsbD 7 ^^ m.getLsbD 6, c := m.getLsbD 7 }

/-- `rol8` (10_state.md R41); `cold` is the old carry. -/
def rol8 (m : Byte) (cold : Bool) : Diff8 :=
  { r := m.extractLsb' 0 7 ++ BitVec.ofBool cold, v := m.getLsbD 7 ^^ m.getLsbD 6, c := m.getLsbD 7 }

/-- `asr8` (10_state.md R41): the result; the carry is bit 0 of the operand. -/
def asr8 (m : Byte) : Byte := BitVec.ofBool (m.getLsbD 7) ++ m.extractLsb' 1 7

/-- `lsr8` (10_state.md R41): the result; the carry is bit 0 of the operand. -/
def lsr8 (m : Byte) : Byte := 0#1 ++ m.extractLsb' 1 7

/-- `ror8` (10_state.md R41): the result; the carry is bit 0 of the operand. -/
def ror8 (m : Byte) (cold : Bool) : Byte := BitVec.ofBool cold ++ m.extractLsb' 1 7

/-- What an 8-bit operation leaves: its result and the new CC. -/
structure Out8 where
  r : Byte
  cc : Byte
  deriving DecidableEq, Repr

/-- What a 16-bit operation leaves: its result and the new CC. -/
structure Out16 where
  r : Word
  cc : Byte
  deriving DecidableEq, Repr

/-- The flags of a load, a store, a test or a logical operation: N and Z of the result, V cleared
(40_8bit_accumulator_memory.md R135, R163, R183, R187). -/
def logicFlags8 (r cc : Byte) : Byte := setNZ8 r (setFlag .v false cc)

/-- The flags of a 16-bit load or store (41_16bit_accumulator_memory.md R203, R205). -/
def logicFlags16 (r : Word) (cc : Byte) : Byte := setNZ16 r (setFlag .v false cc)

/-- The flags of an addition: H, N, Z, V, C (40_8bit_accumulator_memory.md R131, R133). -/
def sumOut (t : Sum8) (cc : Byte) : Out8 :=
  { r := t.r, cc := setFlag .h t.h (setNZ8 t.r (setFlag .v t.v (setFlag .c t.c cc))) }

/-- The flags of a subtract-like operation: N, Z, V, C, and H undefined (40_8bit_accumulator_memory.md R148, R181, R185). -/
def diffOut (t : Diff8) (cc : Byte) (hu : Bool) : Out8 :=
  { r := t.r, cc := setFlag .h hu (setNZ8 t.r (setFlag .v t.v (setFlag .c t.c cc))) }

/-- The flags of a 16-bit addition, subtraction or comparison: N, Z, V, C (41_16bit_accumulator_memory.md R201, R202). -/
def out16 (t : Res16) (cc : Byte) : Out16 :=
  { r := t.r, cc := setNZ16 t.r (setFlag .v t.v (setFlag .c t.c cc)) }

/-- ADD (40_8bit_accumulator_memory.md R133, R134). -/
def aluAdd (a m cc : Byte) (_hu : Bool) : Out8 := sumOut (add8 a m false) cc

/-- ADC (40_8bit_accumulator_memory.md R131, R132): the old C is the carry in. -/
def aluAdc (a m cc : Byte) (_hu : Bool) : Out8 := sumOut (add8 a m (getFlag cc .c)) cc

/-- SUB and CMP (40_8bit_accumulator_memory.md R148, R149, R185, R186). -/
def aluSub (a m cc : Byte) (hu : Bool) : Out8 := diffOut (sub8 a m false) cc hu

/-- SBC (40_8bit_accumulator_memory.md R181, R182): the old C is the borrow in. -/
def aluSbc (a m cc : Byte) (hu : Bool) : Out8 := diffOut (sub8 a m (getFlag cc .c)) cc hu

/-- AND and BIT (40_8bit_accumulator_memory.md R135, R136, R143, R144). -/
def aluAnd (a m cc : Byte) (_hu : Bool) : Out8 := { r := a &&& m, cc := logicFlags8 (a &&& m) cc }

/-- OR (40_8bit_accumulator_memory.md R173, R174). -/
def aluOr (a m cc : Byte) (_hu : Bool) : Out8 := { r := a ||| m, cc := logicFlags8 (a ||| m) cc }

/-- EOR (40_8bit_accumulator_memory.md R157, R158). -/
def aluEor (a m cc : Byte) (_hu : Bool) : Out8 := { r := a ^^^ m, cc := logicFlags8 (a ^^^ m) cc }

/-- LD (40_8bit_accumulator_memory.md R163, R164). -/
def aluLd (_a m cc : Byte) (_hu : Bool) : Out8 := { r := m, cc := logicFlags8 m cc }

/-- NEG (40_8bit_accumulator_memory.md R170 to R172). -/
def aluNeg (m cc : Byte) (hu : Bool) : Out8 := diffOut (sub8 0 m false) cc hu

/-- COM (40_8bit_accumulator_memory.md R150 to R152). -/
def aluCom (m cc : Byte) (_hu : Bool) : Out8 := { r := ~~~m, cc := setFlag .c true (logicFlags8 (~~~m) cc) }

/-- LSR (40_8bit_accumulator_memory.md R166 to R168). -/
def aluLsr (m cc : Byte) (_hu : Bool) : Out8 :=
  { r := lsr8 m, cc := setFlag .n false (setFlag .z (lsr8 m == 0) (setFlag .c (m.getLsbD 0) cc)) }

/-- ROR (40_8bit_accumulator_memory.md R178 to R180). -/
def aluRor (m cc : Byte) (_hu : Bool) : Out8 :=
  let r := ror8 m (getFlag cc .c)
  { r := r, cc := setNZ8 r (setFlag .c (m.getLsbD 0) cc) }

/-- ASR (40_8bit_accumulator_memory.md R140 to R142): H undefined, V not affected. -/
def aluAsr (m cc : Byte) (hu : Bool) : Out8 :=
  { r := asr8 m, cc := setFlag .h hu (setNZ8 (asr8 m) (setFlag .c (m.getLsbD 0) cc)) }

/-- ASL, LSL (40_8bit_accumulator_memory.md R137 to R139, R165): H undefined. -/
def aluAsl (m cc : Byte) (hu : Bool) : Out8 := diffOut (asl8 m) cc hu

/-- ROL (40_8bit_accumulator_memory.md R175 to R177): H not affected. -/
def aluRol (m cc : Byte) (_hu : Bool) : Out8 :=
  let t := rol8 m (getFlag cc .c)
  { r := t.r, cc := setNZ8 t.r (setFlag .v t.v (setFlag .c t.c cc)) }

/-- DEC (40_8bit_accumulator_memory.md R154 to R156). -/
def aluDec (m cc : Byte) (_hu : Bool) : Out8 :=
  { r := m - 1, cc := setNZ8 (m - 1) (setFlag .v (m == 0x80#8) cc) }

/-- INC (40_8bit_accumulator_memory.md R160 to R162). -/
def aluInc (m cc : Byte) (_hu : Bool) : Out8 :=
  { r := m + 1, cc := setNZ8 (m + 1) (setFlag .v (m == 0x7F#8) cc) }

/-- TST (40_8bit_accumulator_memory.md R187 to R189). -/
def aluTst (m cc : Byte) (_hu : Bool) : Out8 := { r := m, cc := logicFlags8 m cc }

/-- CLR (40_8bit_accumulator_memory.md R145 to R147). -/
def aluClr (_m cc : Byte) (_hu : Bool) : Out8 :=
  { r := 0, cc := setFlag .n false (setFlag .z true (setFlag .v false (setFlag .c false cc))) }

/-- ADDD (41_16bit_accumulator_memory.md R201). -/
def aluAdd16 (a m : Word) (cc : Byte) : Out16 := out16 (add16 a m) cc

/-- SUBD and the 16-bit compares (41_16bit_accumulator_memory.md R202, R206, 42_index_stack_pointer.md R221 to R224). -/
def aluSub16 (a m : Word) (cc : Byte) : Out16 := out16 (sub16 a m) cc

/-- The 16-bit loads (41_16bit_accumulator_memory.md R203, 42_index_stack_pointer.md R225 to R228). -/
def aluLd16 (_a m : Word) (cc : Byte) : Out16 := { r := m, cc := logicFlags16 m cc }

/-- DAA (40_8bit_accumulator_memory.md R153) on accumulator A: the correction of each digit from H, C and the two
nibbles. `vu` is the undefined V. -/
def aluDaa (a cc : Byte) (vu : Bool) : Out8 :=
  let lsn := a.toNat % 16
  let msn := a.toNat / 16
  let low := if getFlag cc .h || decide (9 < lsn) then 6 else 0
  let high := if getFlag cc .c || decide (9 < msn) || (decide (8 < msn) && decide (9 < lsn)) then 6 else 0
  let t := a.toNat + (high * 16 + low)
  let r := BitVec.ofNat 8 t
  { r := r, cc := setNZ8 r (setFlag .v vu (setFlag .c (decide (255 < t) || getFlag cc .c) cc)) }

/-- MUL (40_8bit_accumulator_memory.md R169): the 16-bit product; Z of the product, C its bit 7. -/
def aluMul (a b cc : Byte) : Out16 :=
  let p := BitVec.ofNat 16 (a.toNat * b.toNat)
  { r := p, cc := setFlag .z (p == 0) (setFlag .c (p.getLsbD 7) cc) }

/-- SEX (41_16bit_accumulator_memory.md R204): B sign-extended to D; N and Z of D, V and C not affected. -/
def aluSex (b cc : Byte) : Out16 := { r := sext8 b, cc := setNZ16 (sext8 b) cc }

end Sys2Proof.Machine
end

