-- ==== Sys2Proof/Config.lean ====
section
/-! DEFINITION. The values the spec leaves open (`draw`, 00_scope.md R12), as opaque constants, with the record of a bus
access that they depend on. A draw of a step is applied to the counter `tick` that every step advances, so that each execution
has a value of its own. -/

namespace Sys2Proof

/-- What an access of the MPU to the address space is for (20_memory.md R57). -/
inductive AccessKind where
  | fetch     -- read of an instruction byte (30_encoding.md R91)
  | pointer   -- read of a byte of an indirect address (30_encoding.md R107, R108)
  | load      -- read of a byte at the effective address
  | pull      -- read of a byte from a stack (20_memory.md R65)
  | vector    -- read of a byte of a vector (20_memory.md R58)
  | store     -- write of a byte at the effective address
  | push      -- write of a byte to a stack (20_memory.md R65)
  deriving DecidableEq, Repr

/-- One access: what for, where, the byte moved, and whether BUSY is high during it, which asks other bus masters to wait
until the next access is done (20_memory.md R51, R64). -/
structure Access where
  kind : AccessKind
  addr : Word
  data : Byte
  busy : Bool
  deriving DecidableEq, Repr

/-- The registers without a reset value that hold a byte (10_state.md R45). -/
inductive ResetByte where
  | a | b | cc
  deriving DecidableEq, Repr

/-- The registers without a reset value that hold a word (10_state.md R45). -/
inductive ResetWord where
  | x | y | u | s
  deriving DecidableEq, Repr

/-- CC.H after an instruction that leaves it undefined (10_state.md R34). A free value: log entry 4. -/
opaque Config.undefinedH : Nat → Bool

/-- CC.V after DAA (40_8bit_accumulator_memory.md R153). A free value: log entry 5. -/
opaque Config.undefinedV : Nat → Bool

/-- The live CC.E after a FIRQ entered from the CWAI wait (60_exceptions.md R356). A free value: log entry 6. -/
opaque Config.liveEAfterWait : Nat → Bool

/-- Whether an NMI latched before arming ends the syncing state (60_exceptions.md R354). A free value: log entry 7. -/
opaque Config.unarmedNmiWakes : Nat → Bool

/-- A, B and the flags of CC after a reset of a running machine, by the counter and the value before it (10_state.md R46,
70_reset_and_hazards.md R380). A free value: log entry 3. -/
opaque Config.resetByte : Nat → ResetByte → Byte → Byte

/-- X, Y, U and S after a reset of a running machine, likewise. A free value: log entry 3. -/
opaque Config.resetWord : Nat → ResetWord → Word → Word

/-- The byte read from an address where nothing responds (20_memory.md R60), by the number of accesses before it, so that
every read has a value of its own. A free value: log entry 8. -/
opaque Config.unmappedByte : Nat → Word → Byte

/-- The byte the devices drive on a read of an address where the launch gives no device function (20_memory.md R59): any function
of every access made before it, latest first. A free value: log entry 9. -/
opaque Config.device : List Access → Word → Byte

end Sys2Proof
end

