-- ==== Sys2Proof/Machine/State.lean ====
section
/-! DEFINITION. The state of the machine as plain data, the reasons it can stop, and the state after reset. -/

namespace Sys2Proof.Machine

/-- What the MPU is doing (10_state.md R43). -/
inductive RunState where
  | running       -- executing instructions
  | syncing       -- stopped by SYNC (60_exceptions.md R352)
  | cwaiWaiting   -- stopped by CWAI, its frame already stacked (60_exceptions.md R355)
  deriving DecidableEq, Repr

/-- What stands at an address (20_memory.md R59). -/
inductive MemKind where
  | ram
  | rom
  | device
  | unmapped
  deriving DecidableEq, Repr

/-- The addresses `first` to `last`, both included, and what stands there: a row of `MEMORY_MAP` (20_memory.md R59). -/
structure Region where
  first : Word
  last : Word
  kind : MemKind
  deriving DecidableEq, Repr

/-- The processor's version, which selects the bus-control inputs it has (00_scope.md R7): the MC6809 DMA/BREQ, the MC6809E
TSC and the output BUSY (60_exceptions.md R375). No instruction depends on it. -/
inductive Version where
  | mc6809
  | mc6809e
  deriving DecidableEq, Repr

/-- A number computed from what a device holds, the address accessed, and the byte moved: the plain data that a device function
is written in (20_memory.md R59, log entry 9). -/
inductive DeviceTerm where
  | const (n : Nat)
  | held                                     -- what the devices hold
  | addr                                     -- the address
  | data                                     -- the byte moved; 0 while the byte driven is computed
  | add (x y : DeviceTerm)
  | sub (x y : DeviceTerm)                   -- 0 where `y` is the larger
  | mul (x y : DeviceTerm)
  | div (x y : DeviceTerm)                   -- 0 where `y` is 0
  | mod (x y : DeviceTerm)                   -- `x` where `y` is 0
  | ifLess (x y yes no : DeviceTerm)         -- `yes` if `x` is less than `y`, else `no`
  deriving DecidableEq, Repr

/-- The device function that the host supplies (20_memory.md R59), for all device addresses together: the byte driven on a read,
and what the devices hold after a read and after a write, its side effect. -/
structure Device where
  drives : DeviceTerm
  afterRead : DeviceTerm
  afterWrite : DeviceTerm
  deriving DecidableEq, Repr

/-- What the platform is, fixed for a run (00_scope.md R7, R8): the version; `MEMORY_MAP` with its device function; and the
description of its other bus masters (92_eei_decisions.md D15, log entry 32). -/
structure Platform where
  version : Version
  memMap : List Region      -- `MEMORY_MAP`; an address in no region is RAM (log entry 10)
  dmaBreq : Bool            -- other masters use DMA/BREQ, which the MC6809 has (60_exceptions.md R372)
  tsc : Bool                -- other masters use TSC, which the MC6809E has (60_exceptions.md R371)
  honoursBusy : Bool        -- other masters wait while BUSY is high (20_memory.md R64)
  device : Option Device    -- the device function; where there is none the byte driven is a free value (log entry 9)
  deriving DecidableEq, Repr

/-- What the environment does at one access of the MPU: the bytes that other masters write just before it, if the platform
lets them (20_memory.md R72), and the byte a device drives if the access reads one and the world outside decides it, the device
function deciding where this is absent (20_memory.md R59, log entry 9). -/
structure Cycle where
  writes : List (Word × Byte)
  data : Option Byte
  deriving DecidableEq, Repr

/-- The environment does nothing at the access. -/
def Cycle.quiet : Cycle := ⟨[], none⟩

/-- What the environment presents at one step: the oracle of 60_exceptions.md R333; the bytes that other bus masters write
while the MPU is between instructions or waits, if they may have the bus (20_memory.md R72); and what it does at each access of the step, in order, nothing after
the last. -/
structure Inputs where
  reset : Bool
  nmiEdge : Bool
  firq : Bool
  irq : Bool
  shortPulse : Bool
  halt : Bool
  busWrites : List (Word × Byte)
  cycles : List Cycle
  deriving DecidableEq, Repr

/-- The environment presents nothing. -/
def Inputs.quiet : Inputs := ⟨false, false, false, false, false, false, [], []⟩

/-- Memory: (address, byte) pairs with the addresses strictly rising and no byte equal to `unlistedByte`. -/
abbrev Memory := List Host.Cell

/-- The address space and what happens on its bus (20_memory.md R50, R69). -/
structure Bus where
  platform : Platform
  mem : Memory              -- the bytes of RAM and ROM (20_memory.md R50, R59)
  held : Nat                -- what the devices hold, in the coding of the device function (20_memory.md R59)
  cycles : List Cycle       -- the environment at the coming accesses of this step; quiet after the last
  trace : List Access       -- every access made, latest first (00_scope.md R5, 20_memory.md R69, log entry 13)
  deriving DecidableEq, Repr

/-- The machine (10_state.md R20, R43, with memory, the platform and the environment of 00_scope.md R8). -/
structure State where
  a : Byte                  -- accumulator A
  b : Byte                  -- accumulator B
  dp : Byte                 -- direct page register
  cc : Byte                 -- condition codes E F H I N Z V C, bit 7 to bit 0 (R28)
  x : Word                  -- index register X
  y : Word                  -- index register Y
  u : Word                  -- user stack pointer U
  sp : Word                 -- hardware stack pointer S
  pc : Word                 -- program counter
  nmiArmed : Bool           -- `nmi_armed` (R43)
  nmiPending : Bool         -- `nmi_pending` (R43)
  runState : RunState       -- `run_state` (R43)
  bus : Bus                 -- memory, the platform, and the accesses made
  inputs : List Inputs      -- the environment at the coming steps; quiet after the last (log entry 11)
  tick : Nat                -- the model's own: counts steps, for the free values (log entry 4)
  deriving DecidableEq, Repr

/-- Memory. -/
abbrev State.mem (s : State) : Memory := s.bus.mem

/-- `MEMORY_MAP`. -/
abbrev State.memMap (s : State) : List Region := s.bus.platform.memMap

/-- Every access made, latest first. -/
abbrev State.trace (s : State) : List Access := s.bus.trace

/-- Why the machine stops. The hardware has no such stop (00_scope.md R13): the sources give these encodings no behaviour,
and the model goes no further. Each is safe: nothing is claimed of the hardware after it. -/
inductive Fault where
  /-- Raised by the fetch of an unused opcode at `addr`, with its page prefix if it has one
  (30_encoding.md R120, R123). Safe. -/
  | illegalOpcode (addr : Word) (bytes : List Byte)
  /-- Raised by the fetch of an instruction at `addr` whose indexed postbyte is illegal (30_encoding.md R121). Safe. -/
  | illegalPostbyte (addr : Word) (pb : Byte)
  /-- Raised by the fetch, or by the meaning, of an EXG or TFR at `addr` whose postbyte names an undefined code or two
  registers of unlike width (30_encoding.md R122). Safe. -/
  | undefinedRegisterCode (addr : Word) (pb : Byte)
  deriving DecidableEq, Repr

/-- Why the model gives an instruction no meaning. -/
inductive Refusal where
  /-- Raised by an arm of exec whose instruction has no meaning yet; no arm is one. Safe. -/
  | notModelled (mnemonic : String)
  deriving DecidableEq, Repr

/-- What a meaning and a step answer. -/
abbrev Result := Host.Outcome State Fault Refusal

/-- What an address that memory does not list reads as (log entry 1). DESIGN CHOICE, unsafe. -/
def unlistedByte : Byte := 0x00

/-- The platform of `State.reset`: an MC6809 with RAM at every address, no device and no other bus master. DESIGN CHOICE, log
entries 9, 10 and 32. -/
def Platform.plain : Platform := ⟨.mc6809, [], false, false, false, none⟩

/-- The machine after reset with nothing in memory: F and I set, DP $00, NMI unarmed and not pending, running
(10_state.md R45, 70_reset_and_hazards.md R380), and the pc at the word that the reset has read at $FFFE:$FFFF, here $0000.
The other registers and flags are zero: DESIGN CHOICE, log entry 2. -/
def State.reset : State where
  a := 0
  b := 0
  dp := 0
  cc := 0x50
  x := 0
  y := 0
  u := 0
  sp := 0
  pc := 0
  nmiArmed := false
  nmiPending := false
  runState := .running
  bus := {
    platform := Platform.plain
    mem := []
    held := 0
    cycles := []
    trace := [⟨.vector, 0xFFFF, unlistedByte, false⟩, ⟨.vector, 0xFFFE, unlistedByte, true⟩] }
  inputs := []
  tick := 0

end Sys2Proof.Machine
end

