-- ==== Sys2Proof/Machine/Ops.lean ====
section
/-! DEFINITION. The named operations over memory and registers, the stacks, taking an exception and returning from one,
and reset. -/

namespace Sys2Proof.Machine

/-! ## Memory -/

/-- The byte at an address of the list. -/
def Memory.read : Memory → Nat → Byte
  | [], _ => unlistedByte
  | (k, v) :: rest, a => if k = a then v else Memory.read rest a

/-- The list with one byte written, in canonical form: writing `unlistedByte` removes the entry. -/
def Memory.write : Memory → Nat → Byte → Memory
  | [], a, v => if v = unlistedByte then [] else [(a, v)]
  | (k, w) :: rest, a, v =>
    if a < k then (if v = unlistedByte then (k, w) :: rest else (a, v) :: (k, w) :: rest)
    else if a = k then (if v = unlistedByte then rest else (a, v) :: rest)
    else (k, w) :: Memory.write rest a v

/-- The canonical form from address `lo` on: addresses strictly rising and below 2^16, no byte equal to `unlistedByte`. -/
def Memory.wfFrom : Nat → Memory → Bool
  | _, [] => true
  | lo, (k, v) :: rest => decide (lo ≤ k) && decide (k < 65536) && (v != unlistedByte) && Memory.wfFrom (k + 1) rest

/-- The canonical form of memory. -/
def Memory.wf (m : Memory) : Bool := Memory.wfFrom 0 m

/-- Whether an address lies in a region. -/
def Region.holds (r : Region) (a : Word) : Bool := decide (r.first.toNat ≤ a.toNat) && decide (a.toNat ≤ r.last.toNat)

/-- What stands at an address: its first region says; an address in no region is RAM (20_memory.md R59, log entry 10). -/
def kindAt : List Region → Word → MemKind
  | [], _ => .ram
  | r :: rest, a => if r.holds a then r.kind else kindAt rest a

/-! ## The bus -/

/-- The MC6809 has the DMA/BREQ input (00_scope.md R7, 60_exceptions.md R375). -/
def Version.hasDmaBreq : Version → Bool
  | .mc6809 => true
  | .mc6809e => false

/-- The MC6809E has the TSC input and the BUSY output (00_scope.md R7, 60_exceptions.md R375). -/
def Version.hasTsc : Version → Bool
  | .mc6809 => false
  | .mc6809e => true

/-- Whether other masters may take the bus between two accesses of one instruction, `busy` being BUSY during the first: by
DMA/BREQ always; by TSC always, or only while BUSY is low if they honour it (20_memory.md R56, R64, R72,
60_exceptions.md R372). -/
def Platform.admits (p : Platform) (busy : Bool) : Bool :=
  (p.version.hasDmaBreq && p.dmaBreq) || (p.version.hasTsc && p.tsc && !(p.honoursBusy && busy))

/-- The number that a term of a device function stands for. -/
def DeviceTerm.eval (held addr data : Nat) : DeviceTerm → Nat
  | .const n => n
  | .held => held
  | .addr => addr
  | .data => data
  | .add x y => x.eval held addr data + y.eval held addr data
  | .sub x y => x.eval held addr data - y.eval held addr data
  | .mul x y => x.eval held addr data * y.eval held addr data
  | .div x y => x.eval held addr data / y.eval held addr data
  | .mod x y => x.eval held addr data % y.eval held addr data
  | .ifLess x y yes no =>
    if x.eval held addr data < y.eval held addr data then yes.eval held addr data else no.eval held addr data

/-- Whether an access writes. -/
def isWrite : AccessKind → Bool
  | .store | .push => true
  | .fetch | .pointer | .load | .pull | .vector => false

/-- What the devices hold after an access: it reaches them if it is to a device address (20_memory.md R59, R61). -/
def Platform.heldAfter (p : Platform) (held : Nat) (x : Access) : Nat :=
  match kindAt p.memMap x.addr, p.device with
  | .device, some d => (if isWrite x.kind then d.afterWrite else d.afterRead).eval held x.addr.toNat x.data.toNat
  | .device, none | .ram, _ | .rom, _ | .unmapped, _ => held

/-- A byte written: only RAM keeps it (20_memory.md R59, R60); a device has it by `Platform.heldAfter`. -/
def Bus.store (b : Bus) (a : Word) (v : Byte) : Bus :=
  match kindAt b.platform.memMap a with
  | .ram => { b with mem := b.mem.write a.toNat v }
  | .rom | .device | .unmapped => b

/-- A byte written by another bus master, to RAM or a device (20_memory.md R72). -/
def Bus.otherWrite (b : Bus) (a : Word) (v : Byte) : Bus :=
  { b.store a v with held := b.platform.heldAfter b.held ⟨.store, a, v, false⟩ }

/-- Bytes written by other bus masters, in order (20_memory.md R72). -/
def Bus.othersWrite (b : Bus) : List (Word × Byte) → Bus
  | [] => b
  | (a, v) :: rest => (b.otherWrite a v).othersWrite rest

/-- What the environment does at the next access. -/
def Bus.cycle (b : Bus) : Cycle := b.cycles.headD Cycle.quiet

/-- BUSY during the last access (20_memory.md R64). -/
def Bus.busy (b : Bus) : Bool :=
  match b.trace with
  | [] => false
  | last :: _ => last.busy

/-- The bus when the next access begins: the other masters have had their turn, if they may (20_memory.md R72). -/
def Bus.shared (b : Bus) : Bus := if b.platform.admits b.busy then b.othersWrite b.cycle.writes else b

/-- An access made: a device has its side effect, the access is recorded, and the environment moves on. -/
def Bus.record (b : Bus) (x : Access) : Bus :=
  { b with cycles := b.cycles.tail, trace := x :: b.trace, held := b.platform.heldAfter b.held x }

/-- The byte that the devices drive at an address (20_memory.md R59). -/
def Bus.driven (b : Bus) (a : Word) : Byte :=
  match b.platform.device with
  | some d => BitVec.ofNat 8 (d.drives.eval b.held a.toNat 0)
  | none => Config.device b.trace a

/-- The byte that a read of an address finds now: RAM and ROM hold one, a device drives one (log entry 9), and where nothing
responds it is a free value of this read (20_memory.md R59, R60, log entry 8). -/
def Bus.read (b : Bus) (a : Word) : Byte :=
  match kindAt b.platform.memMap a with
  | .ram | .rom => b.shared.mem.read a.toNat
  | .device => b.cycle.data.getD (b.shared.driven a)
  | .unmapped => Config.unmappedByte b.trace.length a

/-- The bus after a read. -/
def Bus.didRead (b : Bus) (k : AccessKind) (busy : Bool) (a : Word) : Bus := b.shared.record ⟨k, a, b.read a, busy⟩

/-- The bus after a write. -/
def Bus.write (b : Bus) (k : AccessKind) (busy : Bool) (a : Word) (v : Byte) : Bus :=
  (b.shared.store a v).record ⟨k, a, v, busy⟩

/-- `MemRead(addr, 1)`: the byte read (00_scope.md R12). -/
def State.readByte (s : State) (a : Word) : Byte := s.bus.read a

/-- `MemRead(addr, 1)`: the state after it. -/
def State.didRead (s : State) (k : AccessKind) (busy : Bool) (a : Word) : State := { s with bus := s.bus.didRead k busy a }

/-- `MemWrite(addr, 1, v)` (00_scope.md R12). -/
def State.write (s : State) (k : AccessKind) (busy : Bool) (a : Word) (v : Byte) : State :=
  { s with bus := s.bus.write k busy a v }

/-- `MemRead(addr, 2)`: the high byte, at the lower address, first; BUSY is high during it (00_scope.md R12, 20_memory.md R52,
R55, R63, R64). -/
def State.readWord (s : State) (k : AccessKind) (a : Word) : Word :=
  word (s.readByte a) ((s.didRead k true a).readByte (a + 1))

/-- `MemRead(addr, 2)`: the state after it. -/
def State.didReadWord (s : State) (k : AccessKind) (a : Word) : State := (s.didRead k true a).didRead k false (a + 1)

/-- `MemWrite(addr, 2, v)`: the high byte, at the lower address, first; BUSY is high during it (00_scope.md R12, 20_memory.md
R52, R55, R63, R64). -/
def State.writeWord (s : State) (k : AccessKind) (a : Word) (v : Word) : State :=
  (s.write k true a (hiByte v)).write k false (a + 1) (loByte v)

/-! ## Registers -/

/-- The 8-bit accumulators (10_state.md R21). -/
inductive Acc where
  | a | b
  deriving DecidableEq, Repr

/-- The registers of the 16-bit loads, stores and compares (10_state.md R22 to R24). -/
inductive Reg16 where
  | d | x | y | u | s
  deriving DecidableEq, Repr

/-- D, which is A:B (10_state.md R22). -/
def State.d (s : State) : Word := word s.a s.b

/-- Writing D writes A and B (10_state.md R22). -/
def State.setD (s : State) (v : Word) : State := { s with a := hiByte v, b := loByte v }

/-- The value of an accumulator. -/
def State.acc (s : State) : Acc → Byte
  | .a => s.a
  | .b => s.b

/-- An accumulator written. -/
def State.setAcc (s : State) (r : Acc) (v : Byte) : State :=
  match r with
  | .a => { s with a := v }
  | .b => { s with b := v }

/-- The value of a pointer register. -/
def State.ptr (s : State) : Ptr → Word
  | .x => s.x
  | .y => s.y
  | .u => s.u
  | .s => s.sp

/-- A pointer register stepped by an addressing mode; S stepped so does not arm NMI (60_exceptions.md R338). -/
def State.setPtr (s : State) (r : Ptr) (v : Word) : State :=
  match r with
  | .x => { s with x := v }
  | .y => { s with y := v }
  | .u => { s with u := v }
  | .s => { s with sp := v }

/-- A program load of S, which arms NMI (60_exceptions.md R338, log entry 16). -/
def State.loadS (s : State) (v : Word) : State := { s with sp := v, nmiArmed := true }

/-- The value of a 16-bit register. -/
def State.reg16 (s : State) : Reg16 → Word
  | .d => s.d
  | .x => s.x
  | .y => s.y
  | .u => s.u
  | .s => s.sp

/-- A 16-bit register loaded by the program; a load of S arms NMI (60_exceptions.md R338). -/
def State.load16 (s : State) (r : Reg16) (v : Word) : State :=
  match r with
  | .d => s.setD v
  | .x => { s with x := v }
  | .y => { s with y := v }
  | .u => { s with u := v }
  | .s => s.loadS v

/-- The value of an EXG or TFR register, an 8-bit one in the low byte; PC reads as the address of the next instruction
(30_encoding.md R97, 10_state.md R26). -/
def State.xreg (s : State) : XReg → Word
  | .d => s.d
  | .x => s.x
  | .y => s.y
  | .u => s.u
  | .s => s.sp
  | .pc => s.pc
  | .a => zext8 s.a
  | .b => zext8 s.b
  | .cc => zext8 s.cc
  | .dp => zext8 s.dp

/-- An EXG or TFR register written, an 8-bit one from the low byte; S written so arms NMI (30_encoding.md R97,
60_exceptions.md R338). -/
def State.setXreg (s : State) (r : XReg) (v : Word) : State :=
  match r with
  | .d => s.setD v
  | .x => { s with x := v }
  | .y => { s with y := v }
  | .u => { s with u := v }
  | .s => s.loadS v
  | .pc => { s with pc := v }
  | .a => { s with a := loByte v }
  | .b => { s with b := loByte v }
  | .cc => { s with cc := loByte v }
  | .dp => { s with dp := loByte v }

/-- One flag of CC. -/
def State.flag (s : State) (k : Flag) : Bool := getFlag s.cc k

/-- One flag of CC written. -/
def State.putFlag (s : State) (k : Flag) (v : Bool) : State := { s with cc := setFlag k v s.cc }

/-- The undefined H of an instruction executed now (10_state.md R34): a free value (log entry 4). -/
def State.undefinedH (s : State) : Bool := Config.undefinedH s.tick

/-! ## Stacks -/

/-- The two stacks (10_state.md R24). -/
inductive Stack where
  | s | u
  deriving DecidableEq, Repr

/-- The pointer of a stack. -/
def State.top (s : State) : Stack → Word
  | .s => s.sp
  | .u => s.u

/-- The pointer of a stack moved; this does not arm NMI (60_exceptions.md R338). -/
def State.setTop (s : State) (k : Stack) (v : Word) : State :=
  match k with
  | .s => { s with sp := v }
  | .u => { s with u := v }

/-- The other stack pointer (30_encoding.md R98). -/
def State.other (s : State) : Stack → Word
  | .s => s.u
  | .u => s.sp

/-- The other stack pointer pulled: U from the S stack; S from the U stack, which arms NMI (42_index_stack_pointer.md R235,
R236). -/
def State.setOther (s : State) (k : Stack) (v : Word) : State :=
  match k with
  | .s => { s with u := v }
  | .u => s.loadS v

/-- `Push8`; BUSY stays low (20_memory.md R64, R65). -/
def State.push8 (s : State) (k : Stack) (v : Byte) : State :=
  (s.setTop k (s.top k - 1)).write .push false (s.top k - 1) v

/-- `Push16`: the low byte first (20_memory.md R65). -/
def State.push16 (s : State) (k : Stack) (v : Word) : State := (s.push8 k (loByte v)).push8 k (hiByte v)

/-- `Pull8`: the byte read (20_memory.md R65). -/
def State.pulled8 (s : State) (k : Stack) : Byte := s.readByte (s.top k)

/-- `Pull8`: the state after it; BUSY stays low (20_memory.md R64, R65). -/
def State.popped8 (s : State) (k : Stack) : State := (s.didRead .pull false (s.top k)).setTop k (s.top k + 1)

/-- `Pull16`: the word read, the high byte first (20_memory.md R65). -/
def State.pulled16 (s : State) (k : Stack) : Word := word (s.pulled8 k) ((s.popped8 k).pulled8 k)

/-- `Pull16`: the state after it (20_memory.md R65). -/
def State.popped16 (s : State) (k : Stack) : State := (s.popped8 k).popped8 k

/-- `Push8` of a selected register (42_index_stack_pointer.md R233). -/
def State.push8If (s : State) (k : Stack) (sel : Bool) (v : Byte) : State := if sel then s.push8 k v else s

/-- `Push16` of a selected register (42_index_stack_pointer.md R233). -/
def State.push16If (s : State) (k : Stack) (sel : Bool) (v : Word) : State := if sel then s.push16 k v else s

/-- `Pull8` into a selected register (42_index_stack_pointer.md R235). -/
def State.pull8If (s : State) (k : Stack) (sel : Bool) (put : State → Byte → State) : State :=
  if sel then put (s.popped8 k) (s.pulled8 k) else s

/-- `Pull16` into a selected register (42_index_stack_pointer.md R235). -/
def State.pull16If (s : State) (k : Stack) (sel : Bool) (put : State → Word → State) : State :=
  if sel then put (s.popped16 k) (s.pulled16 k) else s

/-- The registers of a list pushed, PC first and CC last; a push changes none of them (20_memory.md R66,
42_index_stack_pointer.md R233, R234). -/
def State.pushRegs (s : State) (k : Stack) (l : RegList) : State :=
  (((((((s.push16If k l.pc s.pc).push16If k l.other (s.other k)).push16If k l.y s.y).push16If k l.x s.x).push8If k
    l.dp s.dp).push8If k l.b s.b).push8If k l.a s.a).push8If k l.cc s.cc

/-- The registers of a list pulled, CC first and PC last (20_memory.md R66, 42_index_stack_pointer.md R235, R236). -/
def State.pullRegs (s : State) (k : Stack) (l : RegList) : State :=
  let s := s.pull8If k l.cc (fun t v => { t with cc := v })
  let s := s.pull8If k l.a (fun t v => { t with a := v })
  let s := s.pull8If k l.b (fun t v => { t with b := v })
  let s := s.pull8If k l.dp (fun t v => { t with dp := v })
  let s := s.pull16If k l.x (fun t v => { t with x := v })
  let s := s.pull16If k l.y (fun t v => { t with y := v })
  let s := s.pull16If k l.other (fun t v => t.setOther k v)
  s.pull16If k l.pc (fun t v => { t with pc := v })

/-! ## Exceptions -/

/-- The registers of the entire state (00_scope.md R15). -/
def entireState : RegList := ⟨true, true, true, true, true, true, true, true⟩

/-- `PushEntireState` (44_miscellaneous.md R300(b)). -/
def State.pushEntireState (s : State) : State := s.pushRegs .s entireState

/-- The interrupts, hardware and software (60_exceptions.md R330). -/
inductive Exc where
  | nmi | firq | irq | swi | swi2 | swi3
  deriving DecidableEq, Repr

/-- The address of an interrupt's vector (20_memory.md R58). -/
def Exc.vector : Exc → Word
  | .nmi => 0xFFFC
  | .swi => 0xFFFA
  | .irq => 0xFFF8
  | .firq => 0xFFF6
  | .swi2 => 0xFFF4
  | .swi3 => 0xFFF2

/-- The address of the reset vector (20_memory.md R58). -/
def resetVector : Word := 0xFFFE

/-- What an interrupt stacks: the entire state with E set, or PC and CC with E cleared (10_state.md R35,
60_exceptions.md R340 to R345). -/
def State.stackFrame (s : State) : Exc → State
  | .firq =>
    let s := (s.push16 .s s.pc).putFlag .e false
    s.push8 .s s.cc
  | .nmi | .irq | .swi | .swi2 | .swi3 => (s.putFlag .e true).pushEntireState

/-- An entry from the CWAI wait stacks nothing; the live E after FIRQ is a free value (60_exceptions.md R355, R356, log
entry 6). -/
def State.keepFrame (s : State) : Exc → State
  | .firq => s.putFlag .e (Config.liveEAfterWait s.tick)
  | .nmi | .irq | .swi | .swi2 | .swi3 => s

/-- The masks an interrupt sets (10_state.md R33, R35). -/
def State.setMasks (s : State) : Exc → State
  | .nmi | .firq | .swi => (s.putFlag .i true).putFlag .f true
  | .irq => s.putFlag .i true
  | .swi2 | .swi3 => s

/-- The jump through a vector (20_memory.md R58). -/
def State.loadVector (s : State) (v : Word) : State := { s.didReadWord .vector v with pc := s.readWord .vector v }

/-- Taking an interrupt (60_exceptions.md R340 to R345): stack the state unless the CWAI wait has done so, set the masks,
load pc from the vector, and run; an NMI taken is no longer pending. -/
def State.enter (s : State) (e : Exc) (stack : Bool) : State :=
  let s := if stack then s.stackFrame e else s.keepFrame e
  let s := (s.setMasks e).loadVector e.vector
  { s with runState := .running, nmiPending := s.nmiPending && e != .nmi }

/-- Returning from an interrupt (44_miscellaneous.md R312): CC first; the E just pulled says whether the other registers
were stacked; PC last. -/
def State.returnFromInterrupt (s : State) : State :=
  let s := s.pullRegs .s { pc := false, other := false, y := false, x := false, dp := false, b := false, a := false, cc := true }
  let e := s.flag .e
  s.pullRegs .s { pc := true, other := e, y := e, x := e, dp := e, b := e, a := e, cc := false }

/-- The values that the registers and flags without a reset value have after a reset (10_state.md R45, R46); the bits F and I
of `cc` count for nothing. -/
structure ResetDraws where
  a : Byte
  b : Byte
  cc : Byte
  x : Word
  y : Word
  u : Word
  sp : Word
  deriving DecidableEq, Repr

/-- `Reset()` with the values it leaves open (70_reset_and_hazards.md R380). -/
def State.resetTo (s : State) (d : ResetDraws) : State :=
  ({ s with
    a := d.a
    b := d.b
    dp := 0
    cc := setFlag .i true (setFlag .f true d.cc)
    x := d.x
    y := d.y
    u := d.u
    sp := d.sp
    nmiArmed := false
    nmiPending := false
    runState := .running } : State).loadVector resetVector

/-- What a reset of a running machine leaves in the registers and flags that R380 does not set: free values that may or may not
be the old ones, since R46 and R380 keep them and 92_eei_decisions.md D7 draws them anew (log entry 3). -/
def State.resetDraws (s : State) : ResetDraws where
  a := Config.resetByte s.tick .a s.a
  b := Config.resetByte s.tick .b s.b
  cc := Config.resetByte s.tick .cc s.cc
  x := Config.resetWord s.tick .x s.x
  y := Config.resetWord s.tick .y s.y
  u := Config.resetWord s.tick .u s.u
  sp := Config.resetWord s.tick .s s.sp

/-- `Reset()` of a machine that runs, waits or is halted (60_exceptions.md R358, 70_reset_and_hazards.md R380). -/
def State.doReset (s : State) : State := s.resetTo s.resetDraws

end Sys2Proof.Machine
end

