-- ==== Sys2Proof/Machine/Operands.lean ====
section
/-! DEFINITION. The addressing modes: the effective address with its side effect on a pointer register, and the operand
(30_encoding.md R93 to R111). `pc` is the address of the next instruction throughout (10_state.md R26). -/

namespace Sys2Proof.Machine

/-- A memory operand: direct, extended or indexed. -/
inductive Mem where
  | dir (d : Byte)
  | ext (a : Word)
  | idx (ix : Idx)
  deriving DecidableEq, Repr

/-- An 8-bit operand: immediate or in memory. -/
inductive Src8 where
  | imm (m : Byte)
  | mem (o : Mem)
  deriving DecidableEq, Repr

/-- A 16-bit operand: immediate or in memory. -/
inductive Src16 where
  | imm (m : Word)
  | mem (o : Mem)
  deriving DecidableEq, Repr

/-- The address of an indexed operand before indirection, from the state before the instruction steps a pointer register
(30_encoding.md R100 to R108). -/
def State.idxAddr (s : State) : Idx → Word
  | .off5 r n => s.ptr r + sext5 n
  | .zero r _ => s.ptr r
  | .off8 r _ n => s.ptr r + sext8 n
  | .off16 r _ n => s.ptr r + n
  | .accA r _ => s.ptr r + sext8 s.a
  | .accB r _ => s.ptr r + sext8 s.b
  | .accD r _ => s.ptr r + s.d
  | .inc1 r => s.ptr r
  | .inc2 r _ => s.ptr r
  | .dec1 r => s.ptr r - 1
  | .dec2 r _ => s.ptr r - 2
  | .pcr8 _ n => s.pc + sext8 n
  | .pcr16 _ n => s.pc + n
  | .extInd a => a

/-- The state after the auto-increment or auto-decrement of an indexed operand (30_encoding.md R105). -/
def State.idxStep (s : State) : Idx → State
  | .inc1 r => s.setPtr r (s.ptr r + 1)
  | .inc2 r _ => s.setPtr r (s.ptr r + 2)
  | .dec1 r => s.setPtr r (s.ptr r - 1)
  | .dec2 r _ => s.setPtr r (s.ptr r - 2)
  | .off5 _ _ | .zero _ _ | .off8 _ _ _ | .off16 _ _ _ | .accA _ _ | .accB _ _ | .accD _ _ => s
  | .pcr8 _ _ | .pcr16 _ _ | .extInd _ => s

/-- Whether an indexed operand is indirect (30_encoding.md R107, R108). -/
def idxIndirect : Idx → Bool
  | .off5 _ _ | .inc1 _ | .dec1 _ => false
  | .zero _ i | .off8 _ i _ | .off16 _ i _ | .accA _ i | .accB _ i | .accD _ i => i
  | .inc2 _ i | .dec2 _ i | .pcr8 i _ | .pcr16 i _ => i
  | .extInd _ => true

/-- `IndexedEA` (30_encoding.md R109): the effective address; a pointer register is stepped before the two bytes of an
indirect address are read (R107). -/
def State.idxEA (s : State) (ix : Idx) : Word :=
  if idxIndirect ix then (s.idxStep ix).readWord .pointer (s.idxAddr ix) else s.idxAddr ix

/-- `IndexedEA` (30_encoding.md R109): the state after it. -/
def State.afterIdx (s : State) (ix : Idx) : State :=
  if idxIndirect ix then (s.idxStep ix).didReadWord .pointer (s.idxAddr ix) else s.idxStep ix

/-- The effective address of a memory operand (30_encoding.md R95, R96, R109). -/
def State.ea (s : State) : Mem → Word
  | .dir d => word s.dp d
  | .ext a => a
  | .idx ix => s.idxEA ix

/-- The state once the effective address is known, a pointer register already stepped (30_encoding.md R110). -/
def State.afterEA (s : State) : Mem → State
  | .dir _ => s
  | .ext _ => s
  | .idx ix => s.afterIdx ix

/-- The operand byte `M` (00_scope.md R12, 40_8bit_accumulator_memory.md R130(a)). -/
def State.operand8 (s : State) : Src8 → Byte
  | .imm m => m
  | .mem o => (s.afterEA o).readByte (s.ea o)

/-- The operand word `M16` (00_scope.md R12, 41_16bit_accumulator_memory.md R200(b)). -/
def State.operand16 (s : State) : Src16 → Word
  | .imm m => m
  | .mem o => (s.afterEA o).readWord .load (s.ea o)

/-- The state in which the operation on an 8-bit operand begins, the operand read (30_encoding.md R110). -/
def State.after8 (s : State) : Src8 → State
  | .imm _ => s
  | .mem o => (s.afterEA o).didRead .load false (s.ea o)

/-- The state in which the operation on a 16-bit operand begins, the operand read (30_encoding.md R110). -/
def State.after16 (s : State) : Src16 → State
  | .imm _ => s
  | .mem o => (s.afterEA o).didReadWord .load (s.ea o)

end Sys2Proof.Machine
end

