-- ==== Sys2Proof/Machine/Boundary.lean ====
section
/-! DEFINITION. The instruction boundary: what the environment presents, which interrupt is taken, and what the two waits
do (60_exceptions.md R331 to R357). -/

namespace Sys2Proof.Machine

/-- What the environment presents at this step (60_exceptions.md R333, log entry 11). -/
def State.nextInputs (s : State) : Inputs := s.inputs.headD Inputs.quiet

/-- The writes of other bus masters between instructions (20_memory.md R72, log entry 12). -/
def State.busWrites (s : State) (l : List (Word × Byte)) : State := { s with bus := s.bus.othersWrite l }

/-- Whether other masters may have the bus at a boundary: between two instructions and in the syncing state always; in the CWAI
wait, in which the MPU does not release it, only by DMA/BREQ or TSC (20_memory.md R72, 60_exceptions.md R355, R371). -/
def State.releasesBus (s : State) : Bool :=
  match s.runState with
  | .running | .syncing => true
  | .cwaiWaiting => s.bus.platform.admits s.bus.busy

/-- The writes that other masters make at the coming boundary. -/
def State.boundaryWrites (s : State) : List (Word × Byte) := if s.releasesBus then s.nextInputs.busWrites else []

/-- The state at the boundary: the counter advanced, the environment's entry taken off the list and its part for the coming
accesses laid ready, the other bus masters' writes done, if they may have the bus. -/
def State.beginStep (s : State) : State :=
  { s with
    tick := s.tick + 1
    inputs := s.inputs.tail
    bus := { s.bus with cycles := s.nextInputs.cycles } }.busWrites s.boundaryWrites

/-- A negative edge on NMI is latched (60_exceptions.md R334). -/
def State.latchNmi (s : State) (inp : Inputs) : State := { s with nmiPending := s.nmiPending || inp.nmiEdge }

/-- The interrupt taken at this boundary, in the order NMI, FIRQ, IRQ (60_exceptions.md R331, R335 to R338). -/
def State.request (s : State) (inp : Inputs) : Option Exc :=
  if s.nmiPending && s.nmiArmed then some .nmi
  else if inp.firq && !s.flag .f then some .firq
  else if inp.irq && !s.flag .i then some .irq
  else none

/-- What one step does at the boundary. -/
inductive Action where
  | enter (e : Exc) (stack : Bool)   -- take an interrupt
  | execute                          -- fetch and execute one instruction
  | wake                             -- leave the syncing state
  | wait                             -- nothing
  deriving DecidableEq, Repr

/-- Whether the syncing state ends though no interrupt is taken: a masked request, a short pulse, or an NMI latched before
arming, for which either outcome is possible (60_exceptions.md R352 to R354, log entry 7). -/
def State.wakes (s : State) (inp : Inputs) : Bool :=
  inp.firq || inp.irq || inp.shortPulse || (s.nmiPending && Config.unarmedNmiWakes s.tick)

/-- The action of a step that is neither a reset nor halted (60_exceptions.md R331). -/
def State.action (s : State) (inp : Inputs) : Action :=
  match s.runState, s.request inp with
  | .running, some e => .enter e true
  | .running, none => .execute
  | .syncing, some e => .enter e true
  | .syncing, none => if s.wakes inp then .wake else .wait
  | .cwaiWaiting, some e => .enter e false
  | .cwaiWaiting, none => .wait

/-- Whether the step is halted (60_exceptions.md R357). -/
def State.halted (s : State) (inp : Inputs) : Bool := inp.halt && s.runState == .running

end Sys2Proof.Machine
end

