-- ==== Sys2Proof/Machine/Accumulator8.lean ====
section
/-! DEFINITION. The 8-bit accumulator and memory instructions (40_8bit_accumulator_memory.md). The operation reads its
register operands after the addressing mode has stepped a pointer register (30_encoding.md R110). -/

namespace Sys2Proof.Machine

/-! ## The shared operations -/

/-- An operation of an accumulator and an operand byte, its result in the accumulator (R130). -/
def accOp (alu : Byte → Byte → Byte → Bool → Out8) (r : Acc) (o : Src8) (s : State) : Result :=
  let t := s.after8 o
  let out := alu (t.acc r) (s.operand8 o) t.cc t.undefinedH
  .next { t.setAcc r out.r with cc := out.cc }

/-- The same operation with its result discarded: CMP, BIT (R143, R148). -/
def accTest (alu : Byte → Byte → Byte → Bool → Out8) (r : Acc) (o : Src8) (s : State) : Result :=
  let t := s.after8 o
  .next { t with cc := (alu (t.acc r) (s.operand8 o) t.cc t.undefinedH).cc }

/-- A store of an accumulator (R183). -/
def accStore (r : Acc) (o : Mem) (s : State) : Result :=
  let t := s.afterEA o
  .next ({ t with cc := logicFlags8 (t.acc r) t.cc }.write .store false (s.ea o) (t.acc r))

/-- A read-modify-write of an accumulator. -/
def accModify (alu : Byte → Byte → Bool → Out8) (r : Acc) (s : State) : Result :=
  let out := alu (s.acc r) s.cc s.undefinedH
  .next { s.setAcc r out.r with cc := out.cc }

/-- A test of an accumulator: TSTA, TSTB (R188). -/
def accProbe (alu : Byte → Byte → Bool → Out8) (r : Acc) (s : State) : Result :=
  .next { s with cc := (alu (s.acc r) s.cc s.undefinedH).cc }

/-- A read-modify-write of a memory byte: read at the effective address, then write there; BUSY is high from the read to the
write (20_memory.md R62, R64). -/
def memModify (alu : Byte → Byte → Bool → Out8) (o : Mem) (s : State) : Result :=
  let t := s.afterEA o
  let out := alu (t.readByte (s.ea o)) t.cc t.undefinedH
  .next ({ t.didRead .load true (s.ea o) with cc := out.cc }.write .store false (s.ea o) out.r)

/-- A test of a memory byte, which is read and not written (R187, 20_memory.md R62). -/
def memProbe (alu : Byte → Byte → Bool → Out8) (o : Mem) (s : State) : Result :=
  let t := s.afterEA o
  .next { t.didRead .load false (s.ea o) with cc := (alu (t.readByte (s.ea o)) t.cc t.undefinedH).cc }

/-! ## Read-modify-write instructions and TST -/

/-- NEG direct (R170). -/
def execNegDir (d : Byte) (s : State) : Result := memModify aluNeg (.dir d) s

/-- NEG indexed (R170). -/
def execNegIdx (ix : Idx) (s : State) : Result := memModify aluNeg (.idx ix) s

/-- NEG extended (R170). -/
def execNegExt (a : Word) (s : State) : Result := memModify aluNeg (.ext a) s

/-- NEGA (R171). -/
def execNega (s : State) : Result := accModify aluNeg .a s

/-- NEGB (R172). -/
def execNegb (s : State) : Result := accModify aluNeg .b s

/-- COM direct (R150). -/
def execComDir (d : Byte) (s : State) : Result := memModify aluCom (.dir d) s

/-- COM indexed (R150). -/
def execComIdx (ix : Idx) (s : State) : Result := memModify aluCom (.idx ix) s

/-- COM extended (R150). -/
def execComExt (a : Word) (s : State) : Result := memModify aluCom (.ext a) s

/-- COMA (R151). -/
def execComa (s : State) : Result := accModify aluCom .a s

/-- COMB (R152). -/
def execComb (s : State) : Result := accModify aluCom .b s

/-- LSR direct (R166). -/
def execLsrDir (d : Byte) (s : State) : Result := memModify aluLsr (.dir d) s

/-- LSR indexed (R166). -/
def execLsrIdx (ix : Idx) (s : State) : Result := memModify aluLsr (.idx ix) s

/-- LSR extended (R166). -/
def execLsrExt (a : Word) (s : State) : Result := memModify aluLsr (.ext a) s

/-- LSRA (R167). -/
def execLsra (s : State) : Result := accModify aluLsr .a s

/-- LSRB (R168). -/
def execLsrb (s : State) : Result := accModify aluLsr .b s

/-- ROR direct (R178). -/
def execRorDir (d : Byte) (s : State) : Result := memModify aluRor (.dir d) s

/-- ROR indexed (R178). -/
def execRorIdx (ix : Idx) (s : State) : Result := memModify aluRor (.idx ix) s

/-- ROR extended (R178). -/
def execRorExt (a : Word) (s : State) : Result := memModify aluRor (.ext a) s

/-- RORA (R179). -/
def execRora (s : State) : Result := accModify aluRor .a s

/-- RORB (R180). -/
def execRorb (s : State) : Result := accModify aluRor .b s

/-- ASR direct (R140). -/
def execAsrDir (d : Byte) (s : State) : Result := memModify aluAsr (.dir d) s

/-- ASR indexed (R140). -/
def execAsrIdx (ix : Idx) (s : State) : Result := memModify aluAsr (.idx ix) s

/-- ASR extended (R140). -/
def execAsrExt (a : Word) (s : State) : Result := memModify aluAsr (.ext a) s

/-- ASRA (R141). -/
def execAsra (s : State) : Result := accModify aluAsr .a s

/-- ASRB (R142). -/
def execAsrb (s : State) : Result := accModify aluAsr .b s

/-- ASL (LSL) direct (R137). -/
def execAslDir (d : Byte) (s : State) : Result := memModify aluAsl (.dir d) s

/-- ASL (LSL) indexed (R137). -/
def execAslIdx (ix : Idx) (s : State) : Result := memModify aluAsl (.idx ix) s

/-- ASL (LSL) extended (R137). -/
def execAslExt (a : Word) (s : State) : Result := memModify aluAsl (.ext a) s

/-- ASLA (LSLA) (R138). -/
def execAsla (s : State) : Result := accModify aluAsl .a s

/-- ASLB (LSLB) (R139). -/
def execAslb (s : State) : Result := accModify aluAsl .b s

/-- ROL direct (R175). -/
def execRolDir (d : Byte) (s : State) : Result := memModify aluRol (.dir d) s

/-- ROL indexed (R175). -/
def execRolIdx (ix : Idx) (s : State) : Result := memModify aluRol (.idx ix) s

/-- ROL extended (R175). -/
def execRolExt (a : Word) (s : State) : Result := memModify aluRol (.ext a) s

/-- ROLA (R176). -/
def execRola (s : State) : Result := accModify aluRol .a s

/-- ROLB (R177). -/
def execRolb (s : State) : Result := accModify aluRol .b s

/-- DEC direct (R154). -/
def execDecDir (d : Byte) (s : State) : Result := memModify aluDec (.dir d) s

/-- DEC indexed (R154). -/
def execDecIdx (ix : Idx) (s : State) : Result := memModify aluDec (.idx ix) s

/-- DEC extended (R154). -/
def execDecExt (a : Word) (s : State) : Result := memModify aluDec (.ext a) s

/-- DECA (R155). -/
def execDeca (s : State) : Result := accModify aluDec .a s

/-- DECB (R156). -/
def execDecb (s : State) : Result := accModify aluDec .b s

/-- INC direct (R160). -/
def execIncDir (d : Byte) (s : State) : Result := memModify aluInc (.dir d) s

/-- INC indexed (R160). -/
def execIncIdx (ix : Idx) (s : State) : Result := memModify aluInc (.idx ix) s

/-- INC extended (R160). -/
def execIncExt (a : Word) (s : State) : Result := memModify aluInc (.ext a) s

/-- INCA (R161). -/
def execInca (s : State) : Result := accModify aluInc .a s

/-- INCB (R162). -/
def execIncb (s : State) : Result := accModify aluInc .b s

/-- CLR direct (R145). -/
def execClrDir (d : Byte) (s : State) : Result := memModify aluClr (.dir d) s

/-- CLR indexed (R145). -/
def execClrIdx (ix : Idx) (s : State) : Result := memModify aluClr (.idx ix) s

/-- CLR extended (R145). -/
def execClrExt (a : Word) (s : State) : Result := memModify aluClr (.ext a) s

/-- CLRA (R146). -/
def execClra (s : State) : Result := accModify aluClr .a s

/-- CLRB (R147). -/
def execClrb (s : State) : Result := accModify aluClr .b s

/-- TST direct (R187). -/
def execTstDir (d : Byte) (s : State) : Result := memProbe aluTst (.dir d) s

/-- TST indexed (R187). -/
def execTstIdx (ix : Idx) (s : State) : Result := memProbe aluTst (.idx ix) s

/-- TST extended (R187). -/
def execTstExt (a : Word) (s : State) : Result := memProbe aluTst (.ext a) s

/-- TSTA (R188). -/
def execTsta (s : State) : Result := accProbe aluTst .a s

/-- TSTB (R189). -/
def execTstb (s : State) : Result := accProbe aluTst .b s

/-! ## Accumulator and operand -/

/-- SUBA immediate (R185). -/
def execSubaImm (m : Byte) (s : State) : Result := accOp aluSub .a (.imm m) s

/-- SUBA direct (R185). -/
def execSubaDir (d : Byte) (s : State) : Result := accOp aluSub .a (.mem (.dir d)) s

/-- SUBA indexed (R185). -/
def execSubaIdx (ix : Idx) (s : State) : Result := accOp aluSub .a (.mem (.idx ix)) s

/-- SUBA extended (R185). -/
def execSubaExt (a : Word) (s : State) : Result := accOp aluSub .a (.mem (.ext a)) s

/-- SUBB immediate (R186). -/
def execSubbImm (m : Byte) (s : State) : Result := accOp aluSub .b (.imm m) s

/-- SUBB direct (R186). -/
def execSubbDir (d : Byte) (s : State) : Result := accOp aluSub .b (.mem (.dir d)) s

/-- SUBB indexed (R186). -/
def execSubbIdx (ix : Idx) (s : State) : Result := accOp aluSub .b (.mem (.idx ix)) s

/-- SUBB extended (R186). -/
def execSubbExt (a : Word) (s : State) : Result := accOp aluSub .b (.mem (.ext a)) s

/-- SBCA immediate (R181). -/
def execSbcaImm (m : Byte) (s : State) : Result := accOp aluSbc .a (.imm m) s

/-- SBCA direct (R181). -/
def execSbcaDir (d : Byte) (s : State) : Result := accOp aluSbc .a (.mem (.dir d)) s

/-- SBCA indexed (R181). -/
def execSbcaIdx (ix : Idx) (s : State) : Result := accOp aluSbc .a (.mem (.idx ix)) s

/-- SBCA extended (R181). -/
def execSbcaExt (a : Word) (s : State) : Result := accOp aluSbc .a (.mem (.ext a)) s

/-- SBCB immediate (R182). -/
def execSbcbImm (m : Byte) (s : State) : Result := accOp aluSbc .b (.imm m) s

/-- SBCB direct (R182). -/
def execSbcbDir (d : Byte) (s : State) : Result := accOp aluSbc .b (.mem (.dir d)) s

/-- SBCB indexed (R182). -/
def execSbcbIdx (ix : Idx) (s : State) : Result := accOp aluSbc .b (.mem (.idx ix)) s

/-- SBCB extended (R182). -/
def execSbcbExt (a : Word) (s : State) : Result := accOp aluSbc .b (.mem (.ext a)) s

/-- ANDA immediate (R135). -/
def execAndaImm (m : Byte) (s : State) : Result := accOp aluAnd .a (.imm m) s

/-- ANDA direct (R135). -/
def execAndaDir (d : Byte) (s : State) : Result := accOp aluAnd .a (.mem (.dir d)) s

/-- ANDA indexed (R135). -/
def execAndaIdx (ix : Idx) (s : State) : Result := accOp aluAnd .a (.mem (.idx ix)) s

/-- ANDA extended (R135). -/
def execAndaExt (a : Word) (s : State) : Result := accOp aluAnd .a (.mem (.ext a)) s

/-- ANDB immediate (R136). -/
def execAndbImm (m : Byte) (s : State) : Result := accOp aluAnd .b (.imm m) s

/-- ANDB direct (R136). -/
def execAndbDir (d : Byte) (s : State) : Result := accOp aluAnd .b (.mem (.dir d)) s

/-- ANDB indexed (R136). -/
def execAndbIdx (ix : Idx) (s : State) : Result := accOp aluAnd .b (.mem (.idx ix)) s

/-- ANDB extended (R136). -/
def execAndbExt (a : Word) (s : State) : Result := accOp aluAnd .b (.mem (.ext a)) s

/-- LDA immediate (R163). -/
def execLdaImm (m : Byte) (s : State) : Result := accOp aluLd .a (.imm m) s

/-- LDA direct (R163). -/
def execLdaDir (d : Byte) (s : State) : Result := accOp aluLd .a (.mem (.dir d)) s

/-- LDA indexed (R163). -/
def execLdaIdx (ix : Idx) (s : State) : Result := accOp aluLd .a (.mem (.idx ix)) s

/-- LDA extended (R163). -/
def execLdaExt (a : Word) (s : State) : Result := accOp aluLd .a (.mem (.ext a)) s

/-- LDB immediate (R164). -/
def execLdbImm (m : Byte) (s : State) : Result := accOp aluLd .b (.imm m) s

/-- LDB direct (R164). -/
def execLdbDir (d : Byte) (s : State) : Result := accOp aluLd .b (.mem (.dir d)) s

/-- LDB indexed (R164). -/
def execLdbIdx (ix : Idx) (s : State) : Result := accOp aluLd .b (.mem (.idx ix)) s

/-- LDB extended (R164). -/
def execLdbExt (a : Word) (s : State) : Result := accOp aluLd .b (.mem (.ext a)) s

/-- EORA immediate (R157). -/
def execEoraImm (m : Byte) (s : State) : Result := accOp aluEor .a (.imm m) s

/-- EORA direct (R157). -/
def execEoraDir (d : Byte) (s : State) : Result := accOp aluEor .a (.mem (.dir d)) s

/-- EORA indexed (R157). -/
def execEoraIdx (ix : Idx) (s : State) : Result := accOp aluEor .a (.mem (.idx ix)) s

/-- EORA extended (R157). -/
def execEoraExt (a : Word) (s : State) : Result := accOp aluEor .a (.mem (.ext a)) s

/-- EORB immediate (R158). -/
def execEorbImm (m : Byte) (s : State) : Result := accOp aluEor .b (.imm m) s

/-- EORB direct (R158). -/
def execEorbDir (d : Byte) (s : State) : Result := accOp aluEor .b (.mem (.dir d)) s

/-- EORB indexed (R158). -/
def execEorbIdx (ix : Idx) (s : State) : Result := accOp aluEor .b (.mem (.idx ix)) s

/-- EORB extended (R158). -/
def execEorbExt (a : Word) (s : State) : Result := accOp aluEor .b (.mem (.ext a)) s

/-- ADCA immediate (R131). -/
def execAdcaImm (m : Byte) (s : State) : Result := accOp aluAdc .a (.imm m) s

/-- ADCA direct (R131). -/
def execAdcaDir (d : Byte) (s : State) : Result := accOp aluAdc .a (.mem (.dir d)) s

/-- ADCA indexed (R131). -/
def execAdcaIdx (ix : Idx) (s : State) : Result := accOp aluAdc .a (.mem (.idx ix)) s

/-- ADCA extended (R131). -/
def execAdcaExt (a : Word) (s : State) : Result := accOp aluAdc .a (.mem (.ext a)) s

/-- ADCB immediate (R132). -/
def execAdcbImm (m : Byte) (s : State) : Result := accOp aluAdc .b (.imm m) s

/-- ADCB direct (R132). -/
def execAdcbDir (d : Byte) (s : State) : Result := accOp aluAdc .b (.mem (.dir d)) s

/-- ADCB indexed (R132). -/
def execAdcbIdx (ix : Idx) (s : State) : Result := accOp aluAdc .b (.mem (.idx ix)) s

/-- ADCB extended (R132). -/
def execAdcbExt (a : Word) (s : State) : Result := accOp aluAdc .b (.mem (.ext a)) s

/-- ORA immediate (R173). -/
def execOraImm (m : Byte) (s : State) : Result := accOp aluOr .a (.imm m) s

/-- ORA direct (R173). -/
def execOraDir (d : Byte) (s : State) : Result := accOp aluOr .a (.mem (.dir d)) s

/-- ORA indexed (R173). -/
def execOraIdx (ix : Idx) (s : State) : Result := accOp aluOr .a (.mem (.idx ix)) s

/-- ORA extended (R173). -/
def execOraExt (a : Word) (s : State) : Result := accOp aluOr .a (.mem (.ext a)) s

/-- ORB immediate (R174). -/
def execOrbImm (m : Byte) (s : State) : Result := accOp aluOr .b (.imm m) s

/-- ORB direct (R174). -/
def execOrbDir (d : Byte) (s : State) : Result := accOp aluOr .b (.mem (.dir d)) s

/-- ORB indexed (R174). -/
def execOrbIdx (ix : Idx) (s : State) : Result := accOp aluOr .b (.mem (.idx ix)) s

/-- ORB extended (R174). -/
def execOrbExt (a : Word) (s : State) : Result := accOp aluOr .b (.mem (.ext a)) s

/-- ADDA immediate (R133). -/
def execAddaImm (m : Byte) (s : State) : Result := accOp aluAdd .a (.imm m) s

/-- ADDA direct (R133). -/
def execAddaDir (d : Byte) (s : State) : Result := accOp aluAdd .a (.mem (.dir d)) s

/-- ADDA indexed (R133). -/
def execAddaIdx (ix : Idx) (s : State) : Result := accOp aluAdd .a (.mem (.idx ix)) s

/-- ADDA extended (R133). -/
def execAddaExt (a : Word) (s : State) : Result := accOp aluAdd .a (.mem (.ext a)) s

/-- ADDB immediate (R134). -/
def execAddbImm (m : Byte) (s : State) : Result := accOp aluAdd .b (.imm m) s

/-- ADDB direct (R134). -/
def execAddbDir (d : Byte) (s : State) : Result := accOp aluAdd .b (.mem (.dir d)) s

/-- ADDB indexed (R134). -/
def execAddbIdx (ix : Idx) (s : State) : Result := accOp aluAdd .b (.mem (.idx ix)) s

/-- ADDB extended (R134). -/
def execAddbExt (a : Word) (s : State) : Result := accOp aluAdd .b (.mem (.ext a)) s

/-- CMPA immediate (R148). -/
def execCmpaImm (m : Byte) (s : State) : Result := accTest aluSub .a (.imm m) s

/-- CMPA direct (R148). -/
def execCmpaDir (d : Byte) (s : State) : Result := accTest aluSub .a (.mem (.dir d)) s

/-- CMPA indexed (R148). -/
def execCmpaIdx (ix : Idx) (s : State) : Result := accTest aluSub .a (.mem (.idx ix)) s

/-- CMPA extended (R148). -/
def execCmpaExt (a : Word) (s : State) : Result := accTest aluSub .a (.mem (.ext a)) s

/-- CMPB immediate (R149). -/
def execCmpbImm (m : Byte) (s : State) : Result := accTest aluSub .b (.imm m) s

/-- CMPB direct (R149). -/
def execCmpbDir (d : Byte) (s : State) : Result := accTest aluSub .b (.mem (.dir d)) s

/-- CMPB indexed (R149). -/
def execCmpbIdx (ix : Idx) (s : State) : Result := accTest aluSub .b (.mem (.idx ix)) s

/-- CMPB extended (R149). -/
def execCmpbExt (a : Word) (s : State) : Result := accTest aluSub .b (.mem (.ext a)) s

/-- BITA immediate (R143). -/
def execBitaImm (m : Byte) (s : State) : Result := accTest aluAnd .a (.imm m) s

/-- BITA direct (R143). -/
def execBitaDir (d : Byte) (s : State) : Result := accTest aluAnd .a (.mem (.dir d)) s

/-- BITA indexed (R143). -/
def execBitaIdx (ix : Idx) (s : State) : Result := accTest aluAnd .a (.mem (.idx ix)) s

/-- BITA extended (R143). -/
def execBitaExt (a : Word) (s : State) : Result := accTest aluAnd .a (.mem (.ext a)) s

/-- BITB immediate (R144). -/
def execBitbImm (m : Byte) (s : State) : Result := accTest aluAnd .b (.imm m) s

/-- BITB direct (R144). -/
def execBitbDir (d : Byte) (s : State) : Result := accTest aluAnd .b (.mem (.dir d)) s

/-- BITB indexed (R144). -/
def execBitbIdx (ix : Idx) (s : State) : Result := accTest aluAnd .b (.mem (.idx ix)) s

/-- BITB extended (R144). -/
def execBitbExt (a : Word) (s : State) : Result := accTest aluAnd .b (.mem (.ext a)) s

/-- STA direct (R183). -/
def execStaDir (d : Byte) (s : State) : Result := accStore .a (.dir d) s

/-- STA indexed (R183). -/
def execStaIdx (ix : Idx) (s : State) : Result := accStore .a (.idx ix) s

/-- STA extended (R183). -/
def execStaExt (a : Word) (s : State) : Result := accStore .a (.ext a) s

/-- STB direct (R184). -/
def execStbDir (d : Byte) (s : State) : Result := accStore .b (.dir d) s

/-- STB indexed (R184). -/
def execStbIdx (ix : Idx) (s : State) : Result := accStore .b (.idx ix) s

/-- STB extended (R184). -/
def execStbExt (a : Word) (s : State) : Result := accStore .b (.ext a) s

/-! ## DAA, MUL, EXG, TFR -/

/-- DAA (R153); V is undefined after it (log entry 5). -/
def execDaa (s : State) : Result :=
  let out := aluDaa s.a s.cc (Config.undefinedV s.tick)
  .next { s with a := out.r, cc := out.cc }

/-- MUL (R169). -/
def execMul (s : State) : Result :=
  let out := aluMul s.a s.b s.cc
  .next { s.setD out.r with cc := out.cc }

/-- EXG (R159): both registers are read first; registers of unlike width have no meaning (30_encoding.md R122). -/
def execExg (r1 r2 : XReg) (s : State) : Result :=
  if r1.is8 == r2.is8 then .next ((s.setXreg r1 (s.xreg r2)).setXreg r2 (s.xreg r1))
  else .fault (.undefinedRegisterCode (s.pc - 2) (registersByte r1 r2))

/-- TFR (R190): source `r1`, destination `r2`; registers of unlike width have no meaning (30_encoding.md R122). -/
def execTfr (r1 r2 : XReg) (s : State) : Result :=
  if r1.is8 == r2.is8 then .next (s.setXreg r2 (s.xreg r1))
  else .fault (.undefinedRegisterCode (s.pc - 2) (registersByte r1 r2))

end Sys2Proof.Machine
end

