-- ==== Sys2Proof/Machine/Branch.lean ====
section
/-! DEFINITION. The branch instructions (43_branches.md). `pc` is the address of the next instruction, to which the offset
is added modulo 2^16 (30_encoding.md R111). -/

namespace Sys2Proof.Machine

/-- The common operation of the branches (R260): `t` is the sign-extended or 16-bit offset. -/
def branch (k : Cond) (t : Word) (s : State) : Result := .next (if k.holds s.cc then { s with pc := s.pc + t } else s)

/-- The common operation of BSR and LBSR: the return address pushed, then the branch (R275, R292). -/
def branchToSubroutine (t : Word) (s : State) : Result := .next { s.push16 .s s.pc with pc := s.pc + t }

/-- BRA (R273). -/
def execBra (o : Byte) (s : State) : Result := branch .always (sext8 o) s

/-- BRN (R274). -/
def execBrn (o : Byte) (s : State) : Result := branch .never (sext8 o) s

/-- BHI (R266). -/
def execBhi (o : Byte) (s : State) : Result := branch .hi (sext8 o) s

/-- BLS (R268). -/
def execBls (o : Byte) (s : State) : Result := branch .ls (sext8 o) s

/-- BCC (BHS) (R261). -/
def execBcc (o : Byte) (s : State) : Result := branch .cc (sext8 o) s

/-- BCS (BLO) (R262). -/
def execBcs (o : Byte) (s : State) : Result := branch .cs (sext8 o) s

/-- BNE (R271). -/
def execBne (o : Byte) (s : State) : Result := branch .ne (sext8 o) s

/-- BEQ (R263). -/
def execBeq (o : Byte) (s : State) : Result := branch .eq (sext8 o) s

/-- BVC (R276). -/
def execBvc (o : Byte) (s : State) : Result := branch .vc (sext8 o) s

/-- BVS (R277). -/
def execBvs (o : Byte) (s : State) : Result := branch .vs (sext8 o) s

/-- BPL (R272). -/
def execBpl (o : Byte) (s : State) : Result := branch .pl (sext8 o) s

/-- BMI (R270). -/
def execBmi (o : Byte) (s : State) : Result := branch .mi (sext8 o) s

/-- BGE (R264). -/
def execBge (o : Byte) (s : State) : Result := branch .ge (sext8 o) s

/-- BLT (R269). -/
def execBlt (o : Byte) (s : State) : Result := branch .lt (sext8 o) s

/-- BGT (R265). -/
def execBgt (o : Byte) (s : State) : Result := branch .gt (sext8 o) s

/-- BLE (R267). -/
def execBle (o : Byte) (s : State) : Result := branch .le (sext8 o) s

/-- LBRA (R290). -/
def execLbra (o : Word) (s : State) : Result := branch .always o s

/-- LBRN (R291). -/
def execLbrn (o : Word) (s : State) : Result := branch .never o s

/-- LBHI (R283). -/
def execLbhi (o : Word) (s : State) : Result := branch .hi o s

/-- LBLS (R285). -/
def execLbls (o : Word) (s : State) : Result := branch .ls o s

/-- LBCC (LBHS) (R278). -/
def execLbcc (o : Word) (s : State) : Result := branch .cc o s

/-- LBCS (LBLO) (R279). -/
def execLbcs (o : Word) (s : State) : Result := branch .cs o s

/-- LBNE (R288). -/
def execLbne (o : Word) (s : State) : Result := branch .ne o s

/-- LBEQ (R280). -/
def execLbeq (o : Word) (s : State) : Result := branch .eq o s

/-- LBVC (R293). -/
def execLbvc (o : Word) (s : State) : Result := branch .vc o s

/-- LBVS (R294). -/
def execLbvs (o : Word) (s : State) : Result := branch .vs o s

/-- LBPL (R289). -/
def execLbpl (o : Word) (s : State) : Result := branch .pl o s

/-- LBMI (R287). -/
def execLbmi (o : Word) (s : State) : Result := branch .mi o s

/-- LBGE (R281). -/
def execLbge (o : Word) (s : State) : Result := branch .ge o s

/-- LBLT (R286). -/
def execLblt (o : Word) (s : State) : Result := branch .lt o s

/-- LBGT (R282). -/
def execLbgt (o : Word) (s : State) : Result := branch .gt o s

/-- LBLE (R284). -/
def execLble (o : Word) (s : State) : Result := branch .le o s

/-- BSR (R275). -/
def execBsr (o : Byte) (s : State) : Result := branchToSubroutine (sext8 o) s

/-- LBSR (R292). -/
def execLbsr (o : Word) (s : State) : Result := branchToSubroutine o s

end Sys2Proof.Machine
end

