-- ==== Sys2Proof/Machine/Misc.lean ====
section
/-! DEFINITION. The miscellaneous instructions (44_miscellaneous.md). -/

namespace Sys2Proof.Machine

/-- The common operation of JMP (R303). -/
def jump (o : Mem) (s : State) : Result := .next { s.afterEA o with pc := s.ea o }

/-- The common operation of JSR (R304): the address first, then the push at the stepped S, then the jump. -/
def jumpToSubroutine (o : Mem) (s : State) : Result := .next { (s.afterEA o).push16 .s s.pc with pc := s.ea o }

/-- ORCC immediate (R306). -/
def execOrcc (m : Byte) (s : State) : Result := .next { s with cc := s.cc ||| m }

/-- ANDCC immediate (R301). -/
def execAndcc (m : Byte) (s : State) : Result := .next { s with cc := s.cc &&& m }

/-- CWAI (R302): the masks ANDed, E set, the entire state stacked, then the wait. -/
def execCwai (m : Byte) (s : State) : Result :=
  .next { ({ s with cc := s.cc &&& m }.putFlag .e true).pushEntireState with runState := .cwaiWaiting }

/-- SYNC (R320). -/
def execSync (s : State) : Result := .next { s with runState := .syncing }

/-- NOP (R305). -/
def execNop (s : State) : Result := .next s

/-- JMP direct (R303). -/
def execJmpDir (d : Byte) (s : State) : Result := jump (.dir d) s

/-- JMP indexed (R303). -/
def execJmpIdx (ix : Idx) (s : State) : Result := jump (.idx ix) s

/-- JMP extended (R303). -/
def execJmpExt (a : Word) (s : State) : Result := jump (.ext a) s

/-- JSR direct (R304). -/
def execJsrDir (d : Byte) (s : State) : Result := jumpToSubroutine (.dir d) s

/-- JSR indexed (R304). -/
def execJsrIdx (ix : Idx) (s : State) : Result := jumpToSubroutine (.idx ix) s

/-- JSR extended (R304). -/
def execJsrExt (a : Word) (s : State) : Result := jumpToSubroutine (.ext a) s

/-- RTS (R313). -/
def execRts (s : State) : Result := .next { s.popped16 .s with pc := s.pulled16 .s }

/-- RTI (R312). -/
def execRti (s : State) : Result := .next s.returnFromInterrupt

/-- SWI (R314, 60_exceptions.md R343). -/
def execSwi (s : State) : Result := .next (s.enter .swi true)

/-- SWI2 (R315, 60_exceptions.md R344). -/
def execSwi2 (s : State) : Result := .next (s.enter .swi2 true)

/-- SWI3 (R316, 60_exceptions.md R345). -/
def execSwi3 (s : State) : Result := .next (s.enter .swi3 true)

end Sys2Proof.Machine
end

