-- ==== Sys2Proof/Machine/PushPull.lean ====
section
/-! DEFINITION. The push and pull instructions (42_index_stack_pointer.md R233 to R236). -/

namespace Sys2Proof.Machine

/-- PSHS (R233). -/
def execPshs (l : RegList) (s : State) : Result := .next (s.pushRegs .s l)

/-- PSHU (R234). -/
def execPshu (l : RegList) (s : State) : Result := .next (s.pushRegs .u l)

/-- PULS (R235). -/
def execPuls (l : RegList) (s : State) : Result := .next (s.pullRegs .s l)

/-- PULU (R236). -/
def execPulu (l : RegList) (s : State) : Result := .next (s.pullRegs .u l)

end Sys2Proof.Machine
end

