-- ==== Sys2Proof/Machine/Wide.lean ====
section
/-! DEFINITION. The 16-bit accumulator instructions (41_16bit_accumulator_memory.md) and the loads, stores, compares and
address loads of the index registers and stack pointers (42_index_stack_pointer.md). -/

namespace Sys2Proof.Machine

/-! ## The shared operations -/

/-- An operation of a 16-bit register and an operand word, its result in the register; a load of S arms NMI
(41_16bit_accumulator_memory.md R200, 42_index_stack_pointer.md R220). -/
def wideOp (alu : Word → Word → Byte → Out16) (r : Reg16) (o : Src16) (s : State) : Result :=
  let t := s.after16 o
  let out := alu (t.reg16 r) (s.operand16 o) t.cc
  .next { t.load16 r out.r with cc := out.cc }

/-- The same operation with its result discarded: the 16-bit compares (R202, R221). -/
def wideTest (alu : Word → Word → Byte → Out16) (r : Reg16) (o : Src16) (s : State) : Result :=
  let t := s.after16 o
  .next { t with cc := (alu (t.reg16 r) (s.operand16 o) t.cc).cc }

/-- A store of a 16-bit register, read after the addressing mode's side effect (R205, R237, R242). -/
def wideStore (r : Reg16) (o : Mem) (s : State) : Result :=
  let t := s.afterEA o
  .next ({ t with cc := logicFlags16 (t.reg16 r) t.cc }.writeWord .store (s.ea o) (t.reg16 r))

/-- LEAS, LEAU: the effective address loaded after the addressing mode's side effect; no flag (R229, R230, R242). -/
def leaStack (r : Reg16) (ix : Idx) (s : State) : Result := .next ((s.afterIdx ix).load16 r (s.idxEA ix))

/-- LEAX, LEAY: the same, with Z set from the address (R231, R232). -/
def leaIndex (r : Reg16) (ix : Idx) (s : State) : Result :=
  .next (((s.afterIdx ix).load16 r (s.idxEA ix)).putFlag .z (s.idxEA ix == 0))

/-! ## The instructions -/

/-- SUBD immediate (R206). -/
def execSubdImm (m : Word) (s : State) : Result := wideOp aluSub16 .d (.imm m) s

/-- SUBD direct (R206). -/
def execSubdDir (d : Byte) (s : State) : Result := wideOp aluSub16 .d (.mem (.dir d)) s

/-- SUBD indexed (R206). -/
def execSubdIdx (ix : Idx) (s : State) : Result := wideOp aluSub16 .d (.mem (.idx ix)) s

/-- SUBD extended (R206). -/
def execSubdExt (a : Word) (s : State) : Result := wideOp aluSub16 .d (.mem (.ext a)) s

/-- ADDD immediate (R201). -/
def execAdddImm (m : Word) (s : State) : Result := wideOp aluAdd16 .d (.imm m) s

/-- ADDD direct (R201). -/
def execAdddDir (d : Byte) (s : State) : Result := wideOp aluAdd16 .d (.mem (.dir d)) s

/-- ADDD indexed (R201). -/
def execAdddIdx (ix : Idx) (s : State) : Result := wideOp aluAdd16 .d (.mem (.idx ix)) s

/-- ADDD extended (R201). -/
def execAdddExt (a : Word) (s : State) : Result := wideOp aluAdd16 .d (.mem (.ext a)) s

/-- LDD immediate (R203). -/
def execLddImm (m : Word) (s : State) : Result := wideOp aluLd16 .d (.imm m) s

/-- LDD direct (R203). -/
def execLddDir (d : Byte) (s : State) : Result := wideOp aluLd16 .d (.mem (.dir d)) s

/-- LDD indexed (R203). -/
def execLddIdx (ix : Idx) (s : State) : Result := wideOp aluLd16 .d (.mem (.idx ix)) s

/-- LDD extended (R203). -/
def execLddExt (a : Word) (s : State) : Result := wideOp aluLd16 .d (.mem (.ext a)) s

/-- LDX immediate (R227). -/
def execLdxImm (m : Word) (s : State) : Result := wideOp aluLd16 .x (.imm m) s

/-- LDX direct (R227). -/
def execLdxDir (d : Byte) (s : State) : Result := wideOp aluLd16 .x (.mem (.dir d)) s

/-- LDX indexed (R227). -/
def execLdxIdx (ix : Idx) (s : State) : Result := wideOp aluLd16 .x (.mem (.idx ix)) s

/-- LDX extended (R227). -/
def execLdxExt (a : Word) (s : State) : Result := wideOp aluLd16 .x (.mem (.ext a)) s

/-- LDY immediate (R228). -/
def execLdyImm (m : Word) (s : State) : Result := wideOp aluLd16 .y (.imm m) s

/-- LDY direct (R228). -/
def execLdyDir (d : Byte) (s : State) : Result := wideOp aluLd16 .y (.mem (.dir d)) s

/-- LDY indexed (R228). -/
def execLdyIdx (ix : Idx) (s : State) : Result := wideOp aluLd16 .y (.mem (.idx ix)) s

/-- LDY extended (R228). -/
def execLdyExt (a : Word) (s : State) : Result := wideOp aluLd16 .y (.mem (.ext a)) s

/-- LDU immediate (R226). -/
def execLduImm (m : Word) (s : State) : Result := wideOp aluLd16 .u (.imm m) s

/-- LDU direct (R226). -/
def execLduDir (d : Byte) (s : State) : Result := wideOp aluLd16 .u (.mem (.dir d)) s

/-- LDU indexed (R226). -/
def execLduIdx (ix : Idx) (s : State) : Result := wideOp aluLd16 .u (.mem (.idx ix)) s

/-- LDU extended (R226). -/
def execLduExt (a : Word) (s : State) : Result := wideOp aluLd16 .u (.mem (.ext a)) s

/-- LDS immediate (R225). -/
def execLdsImm (m : Word) (s : State) : Result := wideOp aluLd16 .s (.imm m) s

/-- LDS direct (R225). -/
def execLdsDir (d : Byte) (s : State) : Result := wideOp aluLd16 .s (.mem (.dir d)) s

/-- LDS indexed (R225). -/
def execLdsIdx (ix : Idx) (s : State) : Result := wideOp aluLd16 .s (.mem (.idx ix)) s

/-- LDS extended (R225). -/
def execLdsExt (a : Word) (s : State) : Result := wideOp aluLd16 .s (.mem (.ext a)) s

/-- CMPD immediate (R202). -/
def execCmpdImm (m : Word) (s : State) : Result := wideTest aluSub16 .d (.imm m) s

/-- CMPD direct (R202). -/
def execCmpdDir (d : Byte) (s : State) : Result := wideTest aluSub16 .d (.mem (.dir d)) s

/-- CMPD indexed (R202). -/
def execCmpdIdx (ix : Idx) (s : State) : Result := wideTest aluSub16 .d (.mem (.idx ix)) s

/-- CMPD extended (R202). -/
def execCmpdExt (a : Word) (s : State) : Result := wideTest aluSub16 .d (.mem (.ext a)) s

/-- CMPX immediate (R223). -/
def execCmpxImm (m : Word) (s : State) : Result := wideTest aluSub16 .x (.imm m) s

/-- CMPX direct (R223). -/
def execCmpxDir (d : Byte) (s : State) : Result := wideTest aluSub16 .x (.mem (.dir d)) s

/-- CMPX indexed (R223). -/
def execCmpxIdx (ix : Idx) (s : State) : Result := wideTest aluSub16 .x (.mem (.idx ix)) s

/-- CMPX extended (R223). -/
def execCmpxExt (a : Word) (s : State) : Result := wideTest aluSub16 .x (.mem (.ext a)) s

/-- CMPY immediate (R224). -/
def execCmpyImm (m : Word) (s : State) : Result := wideTest aluSub16 .y (.imm m) s

/-- CMPY direct (R224). -/
def execCmpyDir (d : Byte) (s : State) : Result := wideTest aluSub16 .y (.mem (.dir d)) s

/-- CMPY indexed (R224). -/
def execCmpyIdx (ix : Idx) (s : State) : Result := wideTest aluSub16 .y (.mem (.idx ix)) s

/-- CMPY extended (R224). -/
def execCmpyExt (a : Word) (s : State) : Result := wideTest aluSub16 .y (.mem (.ext a)) s

/-- CMPU immediate (R222). -/
def execCmpuImm (m : Word) (s : State) : Result := wideTest aluSub16 .u (.imm m) s

/-- CMPU direct (R222). -/
def execCmpuDir (d : Byte) (s : State) : Result := wideTest aluSub16 .u (.mem (.dir d)) s

/-- CMPU indexed (R222). -/
def execCmpuIdx (ix : Idx) (s : State) : Result := wideTest aluSub16 .u (.mem (.idx ix)) s

/-- CMPU extended (R222). -/
def execCmpuExt (a : Word) (s : State) : Result := wideTest aluSub16 .u (.mem (.ext a)) s

/-- CMPS immediate (R221). -/
def execCmpsImm (m : Word) (s : State) : Result := wideTest aluSub16 .s (.imm m) s

/-- CMPS direct (R221). -/
def execCmpsDir (d : Byte) (s : State) : Result := wideTest aluSub16 .s (.mem (.dir d)) s

/-- CMPS indexed (R221). -/
def execCmpsIdx (ix : Idx) (s : State) : Result := wideTest aluSub16 .s (.mem (.idx ix)) s

/-- CMPS extended (R221). -/
def execCmpsExt (a : Word) (s : State) : Result := wideTest aluSub16 .s (.mem (.ext a)) s

/-- STD direct (R205). -/
def execStdDir (d : Byte) (s : State) : Result := wideStore .d (.dir d) s

/-- STD indexed (R205). -/
def execStdIdx (ix : Idx) (s : State) : Result := wideStore .d (.idx ix) s

/-- STD extended (R205). -/
def execStdExt (a : Word) (s : State) : Result := wideStore .d (.ext a) s

/-- STX direct (R239). -/
def execStxDir (d : Byte) (s : State) : Result := wideStore .x (.dir d) s

/-- STX indexed (R239). -/
def execStxIdx (ix : Idx) (s : State) : Result := wideStore .x (.idx ix) s

/-- STX extended (R239). -/
def execStxExt (a : Word) (s : State) : Result := wideStore .x (.ext a) s

/-- STY direct (R240). -/
def execStyDir (d : Byte) (s : State) : Result := wideStore .y (.dir d) s

/-- STY indexed (R240). -/
def execStyIdx (ix : Idx) (s : State) : Result := wideStore .y (.idx ix) s

/-- STY extended (R240). -/
def execStyExt (a : Word) (s : State) : Result := wideStore .y (.ext a) s

/-- STU direct (R238). -/
def execStuDir (d : Byte) (s : State) : Result := wideStore .u (.dir d) s

/-- STU indexed (R238). -/
def execStuIdx (ix : Idx) (s : State) : Result := wideStore .u (.idx ix) s

/-- STU extended (R238). -/
def execStuExt (a : Word) (s : State) : Result := wideStore .u (.ext a) s

/-- STS direct (R237). -/
def execStsDir (d : Byte) (s : State) : Result := wideStore .s (.dir d) s

/-- STS indexed (R237). -/
def execStsIdx (ix : Idx) (s : State) : Result := wideStore .s (.idx ix) s

/-- STS extended (R237). -/
def execStsExt (a : Word) (s : State) : Result := wideStore .s (.ext a) s

/-- LEAX indexed (R231). -/
def execLeax (ix : Idx) (s : State) : Result := leaIndex .x ix s

/-- LEAY indexed (R232). -/
def execLeay (ix : Idx) (s : State) : Result := leaIndex .y ix s

/-- LEAS indexed (R229). -/
def execLeas (ix : Idx) (s : State) : Result := leaStack .s ix s

/-- LEAU indexed (R230). -/
def execLeau (ix : Idx) (s : State) : Result := leaStack .u ix s

/-- SEX (R204). -/
def execSex (s : State) : Result :=
  let out := aluSex s.b s.cc
  .next { s.setD out.r with cc := out.cc }

/-- ABX (R241): B unsigned, no flag. -/
def execAbx (s : State) : Result := .next { s with x := s.x + zext8 s.b }

end Sys2Proof.Machine
end

