-- ==== Sys2Proof/Machine/Dispatch.lean ====
section
/-! DEFINITION. The meaning of every instruction: one arm for each constructor of Instr. On entry `pc` is the address of
the next instruction (10_state.md R26). -/

namespace Sys2Proof.Machine

def exec (i : Instr) (s : State) : Host.Outcome State Fault Refusal :=
  match i with
  | .negDir d => Sys2Proof.Machine.execNegDir d s
  | .comDir d => Sys2Proof.Machine.execComDir d s
  | .lsrDir d => Sys2Proof.Machine.execLsrDir d s
  | .rorDir d => Sys2Proof.Machine.execRorDir d s
  | .asrDir d => Sys2Proof.Machine.execAsrDir d s
  | .aslDir d => Sys2Proof.Machine.execAslDir d s
  | .rolDir d => Sys2Proof.Machine.execRolDir d s
  | .decDir d => Sys2Proof.Machine.execDecDir d s
  | .incDir d => Sys2Proof.Machine.execIncDir d s
  | .tstDir d => Sys2Proof.Machine.execTstDir d s
  | .jmpDir d => Sys2Proof.Machine.execJmpDir d s
  | .clrDir d => Sys2Proof.Machine.execClrDir d s
  | .lbra o => Sys2Proof.Machine.execLbra o s
  | .lbsr o => Sys2Proof.Machine.execLbsr o s
  | .orcc m => Sys2Proof.Machine.execOrcc m s
  | .andcc m => Sys2Proof.Machine.execAndcc m s
  | .exg r1 r2 => Sys2Proof.Machine.execExg r1 r2 s
  | .tfr r1 r2 => Sys2Proof.Machine.execTfr r1 r2 s
  | .bra o => Sys2Proof.Machine.execBra o s
  | .brn o => Sys2Proof.Machine.execBrn o s
  | .bhi o => Sys2Proof.Machine.execBhi o s
  | .bls o => Sys2Proof.Machine.execBls o s
  | .bcc o => Sys2Proof.Machine.execBcc o s
  | .bcs o => Sys2Proof.Machine.execBcs o s
  | .bne o => Sys2Proof.Machine.execBne o s
  | .beq o => Sys2Proof.Machine.execBeq o s
  | .bvc o => Sys2Proof.Machine.execBvc o s
  | .bvs o => Sys2Proof.Machine.execBvs o s
  | .bpl o => Sys2Proof.Machine.execBpl o s
  | .bmi o => Sys2Proof.Machine.execBmi o s
  | .bge o => Sys2Proof.Machine.execBge o s
  | .blt o => Sys2Proof.Machine.execBlt o s
  | .bgt o => Sys2Proof.Machine.execBgt o s
  | .ble o => Sys2Proof.Machine.execBle o s
  | .leax ix => Sys2Proof.Machine.execLeax ix s
  | .leay ix => Sys2Proof.Machine.execLeay ix s
  | .leas ix => Sys2Proof.Machine.execLeas ix s
  | .leau ix => Sys2Proof.Machine.execLeau ix s
  | .pshs l => Sys2Proof.Machine.execPshs l s
  | .puls l => Sys2Proof.Machine.execPuls l s
  | .pshu l => Sys2Proof.Machine.execPshu l s
  | .pulu l => Sys2Proof.Machine.execPulu l s
  | .cwai m => Sys2Proof.Machine.execCwai m s
  | .negIdx ix => Sys2Proof.Machine.execNegIdx ix s
  | .comIdx ix => Sys2Proof.Machine.execComIdx ix s
  | .lsrIdx ix => Sys2Proof.Machine.execLsrIdx ix s
  | .rorIdx ix => Sys2Proof.Machine.execRorIdx ix s
  | .asrIdx ix => Sys2Proof.Machine.execAsrIdx ix s
  | .aslIdx ix => Sys2Proof.Machine.execAslIdx ix s
  | .rolIdx ix => Sys2Proof.Machine.execRolIdx ix s
  | .decIdx ix => Sys2Proof.Machine.execDecIdx ix s
  | .incIdx ix => Sys2Proof.Machine.execIncIdx ix s
  | .tstIdx ix => Sys2Proof.Machine.execTstIdx ix s
  | .jmpIdx ix => Sys2Proof.Machine.execJmpIdx ix s
  | .clrIdx ix => Sys2Proof.Machine.execClrIdx ix s
  | .negExt a => Sys2Proof.Machine.execNegExt a s
  | .comExt a => Sys2Proof.Machine.execComExt a s
  | .lsrExt a => Sys2Proof.Machine.execLsrExt a s
  | .rorExt a => Sys2Proof.Machine.execRorExt a s
  | .asrExt a => Sys2Proof.Machine.execAsrExt a s
  | .aslExt a => Sys2Proof.Machine.execAslExt a s
  | .rolExt a => Sys2Proof.Machine.execRolExt a s
  | .decExt a => Sys2Proof.Machine.execDecExt a s
  | .incExt a => Sys2Proof.Machine.execIncExt a s
  | .tstExt a => Sys2Proof.Machine.execTstExt a s
  | .jmpExt a => Sys2Proof.Machine.execJmpExt a s
  | .clrExt a => Sys2Proof.Machine.execClrExt a s
  | .subaImm m => Sys2Proof.Machine.execSubaImm m s
  | .cmpaImm m => Sys2Proof.Machine.execCmpaImm m s
  | .sbcaImm m => Sys2Proof.Machine.execSbcaImm m s
  | .subdImm m => Sys2Proof.Machine.execSubdImm m s
  | .andaImm m => Sys2Proof.Machine.execAndaImm m s
  | .bitaImm m => Sys2Proof.Machine.execBitaImm m s
  | .ldaImm m => Sys2Proof.Machine.execLdaImm m s
  | .eoraImm m => Sys2Proof.Machine.execEoraImm m s
  | .adcaImm m => Sys2Proof.Machine.execAdcaImm m s
  | .oraImm m => Sys2Proof.Machine.execOraImm m s
  | .addaImm m => Sys2Proof.Machine.execAddaImm m s
  | .cmpxImm m => Sys2Proof.Machine.execCmpxImm m s
  | .bsr o => Sys2Proof.Machine.execBsr o s
  | .ldxImm m => Sys2Proof.Machine.execLdxImm m s
  | .subaDir d => Sys2Proof.Machine.execSubaDir d s
  | .cmpaDir d => Sys2Proof.Machine.execCmpaDir d s
  | .sbcaDir d => Sys2Proof.Machine.execSbcaDir d s
  | .subdDir d => Sys2Proof.Machine.execSubdDir d s
  | .andaDir d => Sys2Proof.Machine.execAndaDir d s
  | .bitaDir d => Sys2Proof.Machine.execBitaDir d s
  | .ldaDir d => Sys2Proof.Machine.execLdaDir d s
  | .staDir d => Sys2Proof.Machine.execStaDir d s
  | .eoraDir d => Sys2Proof.Machine.execEoraDir d s
  | .adcaDir d => Sys2Proof.Machine.execAdcaDir d s
  | .oraDir d => Sys2Proof.Machine.execOraDir d s
  | .addaDir d => Sys2Proof.Machine.execAddaDir d s
  | .cmpxDir d => Sys2Proof.Machine.execCmpxDir d s
  | .jsrDir d => Sys2Proof.Machine.execJsrDir d s
  | .ldxDir d => Sys2Proof.Machine.execLdxDir d s
  | .stxDir d => Sys2Proof.Machine.execStxDir d s
  | .subaIdx ix => Sys2Proof.Machine.execSubaIdx ix s
  | .cmpaIdx ix => Sys2Proof.Machine.execCmpaIdx ix s
  | .sbcaIdx ix => Sys2Proof.Machine.execSbcaIdx ix s
  | .subdIdx ix => Sys2Proof.Machine.execSubdIdx ix s
  | .andaIdx ix => Sys2Proof.Machine.execAndaIdx ix s
  | .bitaIdx ix => Sys2Proof.Machine.execBitaIdx ix s
  | .ldaIdx ix => Sys2Proof.Machine.execLdaIdx ix s
  | .staIdx ix => Sys2Proof.Machine.execStaIdx ix s
  | .eoraIdx ix => Sys2Proof.Machine.execEoraIdx ix s
  | .adcaIdx ix => Sys2Proof.Machine.execAdcaIdx ix s
  | .oraIdx ix => Sys2Proof.Machine.execOraIdx ix s
  | .addaIdx ix => Sys2Proof.Machine.execAddaIdx ix s
  | .cmpxIdx ix => Sys2Proof.Machine.execCmpxIdx ix s
  | .jsrIdx ix => Sys2Proof.Machine.execJsrIdx ix s
  | .ldxIdx ix => Sys2Proof.Machine.execLdxIdx ix s
  | .stxIdx ix => Sys2Proof.Machine.execStxIdx ix s
  | .subaExt a => Sys2Proof.Machine.execSubaExt a s
  | .cmpaExt a => Sys2Proof.Machine.execCmpaExt a s
  | .sbcaExt a => Sys2Proof.Machine.execSbcaExt a s
  | .subdExt a => Sys2Proof.Machine.execSubdExt a s
  | .andaExt a => Sys2Proof.Machine.execAndaExt a s
  | .bitaExt a => Sys2Proof.Machine.execBitaExt a s
  | .ldaExt a => Sys2Proof.Machine.execLdaExt a s
  | .staExt a => Sys2Proof.Machine.execStaExt a s
  | .eoraExt a => Sys2Proof.Machine.execEoraExt a s
  | .adcaExt a => Sys2Proof.Machine.execAdcaExt a s
  | .oraExt a => Sys2Proof.Machine.execOraExt a s
  | .addaExt a => Sys2Proof.Machine.execAddaExt a s
  | .cmpxExt a => Sys2Proof.Machine.execCmpxExt a s
  | .jsrExt a => Sys2Proof.Machine.execJsrExt a s
  | .ldxExt a => Sys2Proof.Machine.execLdxExt a s
  | .stxExt a => Sys2Proof.Machine.execStxExt a s
  | .subbImm m => Sys2Proof.Machine.execSubbImm m s
  | .cmpbImm m => Sys2Proof.Machine.execCmpbImm m s
  | .sbcbImm m => Sys2Proof.Machine.execSbcbImm m s
  | .adddImm m => Sys2Proof.Machine.execAdddImm m s
  | .andbImm m => Sys2Proof.Machine.execAndbImm m s
  | .bitbImm m => Sys2Proof.Machine.execBitbImm m s
  | .ldbImm m => Sys2Proof.Machine.execLdbImm m s
  | .eorbImm m => Sys2Proof.Machine.execEorbImm m s
  | .adcbImm m => Sys2Proof.Machine.execAdcbImm m s
  | .orbImm m => Sys2Proof.Machine.execOrbImm m s
  | .addbImm m => Sys2Proof.Machine.execAddbImm m s
  | .lddImm m => Sys2Proof.Machine.execLddImm m s
  | .lduImm m => Sys2Proof.Machine.execLduImm m s
  | .subbDir d => Sys2Proof.Machine.execSubbDir d s
  | .cmpbDir d => Sys2Proof.Machine.execCmpbDir d s
  | .sbcbDir d => Sys2Proof.Machine.execSbcbDir d s
  | .adddDir d => Sys2Proof.Machine.execAdddDir d s
  | .andbDir d => Sys2Proof.Machine.execAndbDir d s
  | .bitbDir d => Sys2Proof.Machine.execBitbDir d s
  | .ldbDir d => Sys2Proof.Machine.execLdbDir d s
  | .stbDir d => Sys2Proof.Machine.execStbDir d s
  | .eorbDir d => Sys2Proof.Machine.execEorbDir d s
  | .adcbDir d => Sys2Proof.Machine.execAdcbDir d s
  | .orbDir d => Sys2Proof.Machine.execOrbDir d s
  | .addbDir d => Sys2Proof.Machine.execAddbDir d s
  | .lddDir d => Sys2Proof.Machine.execLddDir d s
  | .stdDir d => Sys2Proof.Machine.execStdDir d s
  | .lduDir d => Sys2Proof.Machine.execLduDir d s
  | .stuDir d => Sys2Proof.Machine.execStuDir d s
  | .subbIdx ix => Sys2Proof.Machine.execSubbIdx ix s
  | .cmpbIdx ix => Sys2Proof.Machine.execCmpbIdx ix s
  | .sbcbIdx ix => Sys2Proof.Machine.execSbcbIdx ix s
  | .adddIdx ix => Sys2Proof.Machine.execAdddIdx ix s
  | .andbIdx ix => Sys2Proof.Machine.execAndbIdx ix s
  | .bitbIdx ix => Sys2Proof.Machine.execBitbIdx ix s
  | .ldbIdx ix => Sys2Proof.Machine.execLdbIdx ix s
  | .stbIdx ix => Sys2Proof.Machine.execStbIdx ix s
  | .eorbIdx ix => Sys2Proof.Machine.execEorbIdx ix s
  | .adcbIdx ix => Sys2Proof.Machine.execAdcbIdx ix s
  | .orbIdx ix => Sys2Proof.Machine.execOrbIdx ix s
  | .addbIdx ix => Sys2Proof.Machine.execAddbIdx ix s
  | .lddIdx ix => Sys2Proof.Machine.execLddIdx ix s
  | .stdIdx ix => Sys2Proof.Machine.execStdIdx ix s
  | .lduIdx ix => Sys2Proof.Machine.execLduIdx ix s
  | .stuIdx ix => Sys2Proof.Machine.execStuIdx ix s
  | .subbExt a => Sys2Proof.Machine.execSubbExt a s
  | .cmpbExt a => Sys2Proof.Machine.execCmpbExt a s
  | .sbcbExt a => Sys2Proof.Machine.execSbcbExt a s
  | .adddExt a => Sys2Proof.Machine.execAdddExt a s
  | .andbExt a => Sys2Proof.Machine.execAndbExt a s
  | .bitbExt a => Sys2Proof.Machine.execBitbExt a s
  | .ldbExt a => Sys2Proof.Machine.execLdbExt a s
  | .stbExt a => Sys2Proof.Machine.execStbExt a s
  | .eorbExt a => Sys2Proof.Machine.execEorbExt a s
  | .adcbExt a => Sys2Proof.Machine.execAdcbExt a s
  | .orbExt a => Sys2Proof.Machine.execOrbExt a s
  | .addbExt a => Sys2Proof.Machine.execAddbExt a s
  | .lddExt a => Sys2Proof.Machine.execLddExt a s
  | .stdExt a => Sys2Proof.Machine.execStdExt a s
  | .lduExt a => Sys2Proof.Machine.execLduExt a s
  | .stuExt a => Sys2Proof.Machine.execStuExt a s
  | .lbrn o => Sys2Proof.Machine.execLbrn o s
  | .lbhi o => Sys2Proof.Machine.execLbhi o s
  | .lbls o => Sys2Proof.Machine.execLbls o s
  | .lbcc o => Sys2Proof.Machine.execLbcc o s
  | .lbcs o => Sys2Proof.Machine.execLbcs o s
  | .lbne o => Sys2Proof.Machine.execLbne o s
  | .lbeq o => Sys2Proof.Machine.execLbeq o s
  | .lbvc o => Sys2Proof.Machine.execLbvc o s
  | .lbvs o => Sys2Proof.Machine.execLbvs o s
  | .lbpl o => Sys2Proof.Machine.execLbpl o s
  | .lbmi o => Sys2Proof.Machine.execLbmi o s
  | .lbge o => Sys2Proof.Machine.execLbge o s
  | .lblt o => Sys2Proof.Machine.execLblt o s
  | .lbgt o => Sys2Proof.Machine.execLbgt o s
  | .lble o => Sys2Proof.Machine.execLble o s
  | .cmpdImm m => Sys2Proof.Machine.execCmpdImm m s
  | .cmpyImm m => Sys2Proof.Machine.execCmpyImm m s
  | .ldyImm m => Sys2Proof.Machine.execLdyImm m s
  | .cmpdDir d => Sys2Proof.Machine.execCmpdDir d s
  | .cmpyDir d => Sys2Proof.Machine.execCmpyDir d s
  | .ldyDir d => Sys2Proof.Machine.execLdyDir d s
  | .styDir d => Sys2Proof.Machine.execStyDir d s
  | .cmpdIdx ix => Sys2Proof.Machine.execCmpdIdx ix s
  | .cmpyIdx ix => Sys2Proof.Machine.execCmpyIdx ix s
  | .ldyIdx ix => Sys2Proof.Machine.execLdyIdx ix s
  | .styIdx ix => Sys2Proof.Machine.execStyIdx ix s
  | .cmpdExt a => Sys2Proof.Machine.execCmpdExt a s
  | .cmpyExt a => Sys2Proof.Machine.execCmpyExt a s
  | .ldyExt a => Sys2Proof.Machine.execLdyExt a s
  | .styExt a => Sys2Proof.Machine.execStyExt a s
  | .ldsImm m => Sys2Proof.Machine.execLdsImm m s
  | .ldsDir d => Sys2Proof.Machine.execLdsDir d s
  | .stsDir d => Sys2Proof.Machine.execStsDir d s
  | .ldsIdx ix => Sys2Proof.Machine.execLdsIdx ix s
  | .stsIdx ix => Sys2Proof.Machine.execStsIdx ix s
  | .ldsExt a => Sys2Proof.Machine.execLdsExt a s
  | .stsExt a => Sys2Proof.Machine.execStsExt a s
  | .cmpuImm m => Sys2Proof.Machine.execCmpuImm m s
  | .cmpsImm m => Sys2Proof.Machine.execCmpsImm m s
  | .cmpuDir d => Sys2Proof.Machine.execCmpuDir d s
  | .cmpsDir d => Sys2Proof.Machine.execCmpsDir d s
  | .cmpuIdx ix => Sys2Proof.Machine.execCmpuIdx ix s
  | .cmpsIdx ix => Sys2Proof.Machine.execCmpsIdx ix s
  | .cmpuExt a => Sys2Proof.Machine.execCmpuExt a s
  | .cmpsExt a => Sys2Proof.Machine.execCmpsExt a s
  | .nop => Sys2Proof.Machine.execNop s
  | .sync => Sys2Proof.Machine.execSync s
  | .daa => Sys2Proof.Machine.execDaa s
  | .sex => Sys2Proof.Machine.execSex s
  | .rts => Sys2Proof.Machine.execRts s
  | .abx => Sys2Proof.Machine.execAbx s
  | .rti => Sys2Proof.Machine.execRti s
  | .mul => Sys2Proof.Machine.execMul s
  | .swi => Sys2Proof.Machine.execSwi s
  | .nega => Sys2Proof.Machine.execNega s
  | .coma => Sys2Proof.Machine.execComa s
  | .lsra => Sys2Proof.Machine.execLsra s
  | .rora => Sys2Proof.Machine.execRora s
  | .asra => Sys2Proof.Machine.execAsra s
  | .asla => Sys2Proof.Machine.execAsla s
  | .rola => Sys2Proof.Machine.execRola s
  | .deca => Sys2Proof.Machine.execDeca s
  | .inca => Sys2Proof.Machine.execInca s
  | .tsta => Sys2Proof.Machine.execTsta s
  | .clra => Sys2Proof.Machine.execClra s
  | .negb => Sys2Proof.Machine.execNegb s
  | .comb => Sys2Proof.Machine.execComb s
  | .lsrb => Sys2Proof.Machine.execLsrb s
  | .rorb => Sys2Proof.Machine.execRorb s
  | .asrb => Sys2Proof.Machine.execAsrb s
  | .aslb => Sys2Proof.Machine.execAslb s
  | .rolb => Sys2Proof.Machine.execRolb s
  | .decb => Sys2Proof.Machine.execDecb s
  | .incb => Sys2Proof.Machine.execIncb s
  | .tstb => Sys2Proof.Machine.execTstb s
  | .clrb => Sys2Proof.Machine.execClrb s
  | .swi2 => Sys2Proof.Machine.execSwi2 s
  | .swi3 => Sys2Proof.Machine.execSwi3 s

end Sys2Proof.Machine
end

