-- ==== Sys2Proof/Machine/Fetch.lean ====
section
/-! DEFINITION. Fetching and executing one instruction, one whole step at the boundary, and placing an instruction where
the next step fetches it. -/

namespace Sys2Proof.Machine

/-- `fetch8()`: the state after it (00_scope.md R12); the byte is `s.readByte s.pc`. -/
def State.fetched8 (s : State) (busy : Bool) : State := { s.didRead .fetch busy s.pc with pc := s.pc + 1 }

/-- BUSY while the byte after the bytes `bs` of an instruction is fetched: high for the first byte of a 16-bit immediate
operand and of the address of an extended JMP (20_memory.md R64, log entry 13). -/
def fetchBusy : List Byte → Bool
  | [op] => [0x7E#8, 0x83#8, 0x8C#8, 0x8E#8, 0xC3#8, 0xCC#8, 0xCE#8].contains op
  | [page, op] =>
    (page == 0x10#8 && [0x83#8, 0x8C#8, 0x8E#8, 0xCE#8].contains op) || (page == 0x11#8 && [0x83#8, 0x8C#8].contains op)
  | _ => false

/-- The bytes of an instruction and the state after their fetch (30_encoding.md R91): while those there, with $00 for the bytes
to come, belong to something longer than they are, `fetch8()` brings the next. At most `n` bytes follow `bs`. -/
def State.fetchMore (s : State) (bs : List Byte) : Nat → List Byte × State
  | 0 => (bs, s)
  | n + 1 =>
    if bs.length < (decode (Window.ofList bs)).size then
      (s.fetched8 (fetchBusy bs)).fetchMore (bs ++ [s.readByte s.pc]) n
    else (bs, s)

/-- The bytes of the instruction at `pc`, at most five (30_encoding.md R81), and the state after their fetch, whose `pc` is the
address of the next instruction (10_state.md R26). -/
def State.fetch (s : State) : List Byte × State := s.fetchMore [] 5

/-- One instruction: all its bytes are fetched before its operation (00_scope.md R12, 20_memory.md R71). -/
def State.execute (s : State) : Result :=
  match decode (Window.ofList s.fetch.1) with
  | .instr i _ => exec i s.fetch.2
  | .illegalOpcode bytes => .fault (.illegalOpcode s.pc bytes)
  | .illegalPostbyte pb => .fault (.illegalPostbyte s.pc pb)
  | .undefinedRegisterCode pb => .fault (.undefinedRegisterCode s.pc pb)

/-- An action carried out (60_exceptions.md R331). -/
def State.perform (s : State) : Action → Result
  | .enter e stack => .next (s.enter e stack)
  | .execute => s.execute
  | .wake => .next { s with runState := .running }
  | .wait => .next s

/-- The step at a boundary whose inputs are `inp` (60_exceptions.md R331). -/
def State.stepWith (s : State) (inp : Inputs) : Result :=
  if inp.reset then .next s.doReset
  else if (s.latchNmi inp).halted inp then .next (s.latchNmi inp)
  else (s.latchNmi inp).perform ((s.latchNmi inp).action inp)

/-- Bytes placed in memory at `a` and up, with the addresses made RAM where the map says a device or nothing stands there. -/
def State.place (s : State) (a : Word) : List Byte → State
  | [] => s
  | v :: rest =>
    let b := { s.bus with mem := s.mem.write a.toNat v }
    let b := match kindAt s.memMap a with
      | .ram | .rom => b
      | .device | .unmapped => { b with platform := { b.platform with memMap := ⟨a, a, .ram⟩ :: s.memMap } }
    { s with bus := b }.place (a + 1) rest

/-- The environment quiet at the next step. -/
def quietFirst : List Inputs → List Inputs
  | [] => []
  | _ :: rest => Inputs.quiet :: rest

/-- `s` made ready to fetch, with a word of the opcode table at `pc` and $00 after its bits: running, no interrupt taken at
this boundary, the environment quiet (log entry 21). -/
def State.readyToRun (s : State) (nbits w : Nat) : State :=
  let ready := { s with
    runState := .running
    nmiPending := s.nmiPending && !s.nmiArmed
    inputs := quietFirst s.inputs }
  let win := Window.ofList (tableBytes nbits w)
  ready.place s.pc [win.b0, win.b1, win.b2, win.b3, win.b4]

end Sys2Proof.Machine
end

