-- ==== Sys2Proof/Machine/Step.lean ====
section
/-! DEFINITION. One step of the machine (60_exceptions.md R331). -/

namespace Sys2Proof.Machine

/-- One step: a reset, one interrupt entry, one whole instruction, or a step in which the MPU changes nothing. -/
def step (s : State) : Host.Outcome State Fault Refusal := s.beginStep.stepWith s.nextInputs

/-- `s` with a word of the opcode table stored where the next step fetches its instruction (log entry 21). -/
def State.withFetchWord (s : State) (nbits w : Nat) : State := s.readyToRun nbits w

end Sys2Proof.Machine
end

