-- ==== Sys2Proof/Safety.lean ====
section
/-! DEFINITION. What a run is, how it ends, and what counts as a safe one (70_reset_and_hazards.md R396). -/

namespace Sys2Proof.Machine

/-- How a run of bounded length ends (70_reset_and_hazards.md R396). -/
inductive RunEnd where
  | ended (s : State)                        -- the launch's predicate holds at a boundary
  | faulted (r : Fault) (before : State)     -- a model fault, with the state before the faulting instruction
  | refused (r : Refusal) (before : State)   -- an instruction without a meaning; no arm of exec is one
  | unfinished (s : State)                   -- the bound is reached
  deriving DecidableEq, Repr

/-- A run of at most `n` steps to the first boundary at which `END_CONDITION` holds (log entry 31). -/
def runUntil (endCondition : State → Bool) : Nat → State → RunEnd
  | 0, s => if endCondition s then .ended s else .unfinished s
  | n + 1, s =>
    if endCondition s then .ended s
    else match step s with
      | .next s' => runUntil endCondition n s'
      | .fault r => .faulted r s
      | .refused r => .refused r s

/-- A step that goes on. -/
def Goes (s : State) : Prop := ∃ t, step s = .next t

/-- A run of `n` steps in which no step stops. -/
def SafeFor : Nat → State → Prop
  | 0, _ => True
  | n + 1, s => ∃ t, step s = .next t ∧ SafeFor n t

/-- The invariant of every step: memory keeps its canonical form; while the MPU waits in CWAI the live E is set, as CWAI left it
(44_miscellaneous.md R302, 60_exceptions.md R355); and no indivisible pair of accesses is open at a boundary
(20_memory.md R64). -/
def Inv (s : State) : Prop :=
  s.mem.wf = true ∧ (s.runState = .cwaiWaiting → s.flag .e = true) ∧ s.bus.busy = false

end Sys2Proof.Machine
end

