-- ==== Sys2Proof/Forms.lean ====
section
/-! DEFINITION. The vocabulary of the statements: which instruction each operation and operand make, with its bytes; what a
step keeps; what it stores; which accesses it makes. -/

namespace Sys2Proof.Machine

/-! ## What is kept -/

/-- The nine registers but CC, whose bits are named one by one (10_state.md R20). -/
inductive Reg where
  | a | b | dp | x | y | u | s | pc
  deriving DecidableEq, Repr

/-- The value of a register, an 8-bit one in the low byte. -/
def State.reg (s : State) : Reg → Word
  | .a => zext8 s.a
  | .b => zext8 s.b
  | .dp => zext8 s.dp
  | .x => s.x
  | .y => s.y
  | .u => s.u
  | .s => s.sp
  | .pc => s.pc

/-- Every register outside `rs` is unchanged. -/
def KeepsRegs (s t : State) (rs : List Reg) : Prop := ∀ r, r ∉ rs → t.reg r = s.reg r

/-- Every flag outside `fs` is unchanged. -/
def KeepsFlags (s t : State) (fs : List Flag) : Prop := ∀ k, k ∉ fs → t.flag k = s.flag k

/-- The NMI latch, its arming and the run state are unchanged, but that the instruction may arm NMI. -/
def KeepsControl (s t : State) (arms : Bool) : Prop :=
  t.nmiArmed = (s.nmiArmed || arms) ∧ t.nmiPending = s.nmiPending ∧ t.runState = s.runState

/-- The platform, the environment of the coming steps and the model's counter are unchanged. -/
def KeepsPlatform (s t : State) : Prop := t.bus.platform = s.bus.platform ∧ t.inputs = s.inputs ∧ t.tick = s.tick

/-- All but the registers `rs` and the flags `fs` is unchanged, memory left aside. -/
def Keeps (s t : State) (rs : List Reg) (fs : List Flag) : Prop :=
  KeepsRegs s t rs ∧ KeepsFlags s t fs ∧ KeepsControl s t false ∧ KeepsPlatform s t

/-- No other bus master changes an address during the rest of this step: the platform lets none in between two accesses, or the
address is not RAM, or none writes there (20_memory.md R72). -/
def Undisturbed (s : State) (a : Word) : Prop :=
  s.bus.platform.admits false = false ∨ kindAt s.memMap a ≠ .ram ∨ ∀ c ∈ s.bus.cycles, a ∉ c.writes.map Prod.fst

/-- Every byte of memory is as before, but for what other bus masters write. -/
def KeepsMemory (s t : State) : Prop := ∀ a, Undisturbed s a → t.mem.read a.toNat = s.mem.read a.toNat

/-- The address `i` bytes above `a`, modulo 2^16. -/
def above (a : Word) (i : Nat) : Word := a + BitVec.ofNat 16 i

/-- Memory of `t` is that of `s` with the bytes `bs` stored at `a` and up, but for what other bus masters write: an address of
RAM in that range holds the byte stored there, and every other address what it held (20_memory.md R59). -/
def Stores (s t : State) (a : Word) (bs : List Byte) : Prop :=
  (∀ w, Undisturbed s w → (∀ i, i < bs.length → w ≠ above a i) → t.mem.read w.toNat = s.mem.read w.toNat) ∧
  (∀ w, kindAt s.memMap w ≠ .ram → t.mem.read w.toNat = s.mem.read w.toNat) ∧
  (s.mem.wf = true → ∀ i v, bs[i]? = some v → kindAt s.memMap (above a i) = .ram → Undisturbed s (above a i) →
    t.mem.read (above a i).toNat = v)

/-! ## What the bus carries -/

/-- No other bus master writes to a device during the rest of this step. -/
def DevicesUndisturbed (s : State) : Prop :=
  s.bus.platform.admits false = false ∨ ∀ c ∈ s.bus.cycles, ∀ w ∈ c.writes, kindAt s.memMap w.1 ≠ .device

/-- The accesses `accs`, latest first, are all that the MPU makes between `s` and `t`, and the devices have the side effects of
these, but for those of other bus masters' writes (20_memory.md R57, R59, R69). -/
def Makes (s t : State) (accs : List Access) : Prop :=
  t.trace = accs ++ s.trace ∧ t.bus.cycles = s.bus.cycles.drop accs.length ∧
  (DevicesUndisturbed s → t.bus.held = accs.foldr (fun x held => s.bus.platform.heldAfter held x) s.bus.held)

/-- Accesses to the addresses `a` and up, one for each byte, with BUSY low. -/
def accesses (k : AccessKind) (a : Word) : List Byte → List Access
  | [] => []
  | v :: rest => ⟨k, a, v, false⟩ :: accesses k (a + 1) rest

/-- The accesses that fetch the bytes of an instruction from `a` up, its bytes `done` fetched before, BUSY as `fetchBusy` says
(20_memory.md R64, 30_encoding.md R91). -/
def fetches (a : Word) (done : List Byte) : List Byte → List Access
  | [] => []
  | v :: rest => ⟨.fetch, a, v, fetchBusy done⟩ :: fetches (a + 1) (done ++ [v]) rest

/-- A read of an address during the rest of this step finds what memory holds there. -/
def Settled (s : State) (a : Word) : Prop :=
  (kindAt s.memMap a = .ram ∨ kindAt s.memMap a = .rom) ∧ Undisturbed s a

/-- The bytes `bs` are those of memory at `a` and up, wherever memory decides. -/
def Reads (s : State) (a : Word) (bs : List Byte) : Prop :=
  ∀ i v, bs[i]? = some v → Settled s (above a i) → v = s.mem.read (above a i).toNat

/-- Between `s` and `t` the MPU makes the accesses `before`, latest first, and then loads the pc from a vector, high byte first
(20_memory.md R58), as memory then holds it. -/
def LoadsVector (s t : State) (vector : Word) (before : List Access) : Prop :=
  ∃ h l, t.pc = word h l ∧
    Makes s t (⟨.vector, vector + 1, l, false⟩ :: ⟨.vector, vector, h, true⟩ :: before) ∧
    (Settled s vector → h = t.mem.read vector.toNat) ∧ (Settled s (vector + 1) → l = t.mem.read (vector + 1).toNat)

/-! ## Flags of a result -/

/-- N and Z are those of an 8-bit result (10_state.md R36). -/
def NZ8 (t : State) (r : Byte) : Prop := t.flag .n = r.msb ∧ t.flag .z = decide (r = 0)

/-- N and Z are those of a 16-bit result (10_state.md R36). -/
def NZ16 (t : State) (r : Word) : Prop := t.flag .n = r.msb ∧ t.flag .z = decide (r = 0)

/-! ## The forms of an operation -/

/-- The instruction of an 8-bit operand, by addressing mode. -/
def byMode8 (imm dir : Byte → Instr) (idx : Idx → Instr) (ext : Word → Instr) : Src8 → Instr
  | .imm m => imm m
  | .mem (.dir d) => dir d
  | .mem (.idx ix) => idx ix
  | .mem (.ext a) => ext a

/-- The instruction of a 16-bit operand, by addressing mode. -/
def byMode16 (imm : Word → Instr) (dir : Byte → Instr) (idx : Idx → Instr) (ext : Word → Instr) : Src16 → Instr
  | .imm m => imm m
  | .mem (.dir d) => dir d
  | .mem (.idx ix) => idx ix
  | .mem (.ext a) => ext a

/-- The instruction of a memory operand, by addressing mode. -/
def byModeM (dir : Byte → Instr) (idx : Idx → Instr) (ext : Word → Instr) : Mem → Instr
  | .dir d => dir d
  | .idx ix => idx ix
  | .ext a => ext a

/-- The operand bytes of a memory operand (30_encoding.md R95, R96, R109). -/
def Mem.bytes : Mem → List Byte
  | .dir d => [d]
  | .idx ix => encodeIdx ix
  | .ext a => [hiByte a, loByte a]

/-- The operand bytes of an 8-bit operand (30_encoding.md R94). -/
def Src8.bytes : Src8 → List Byte
  | .imm m => [m]
  | .mem o => o.bytes

/-- The operand bytes of a 16-bit operand (30_encoding.md R94). -/
def Src16.bytes : Src16 → List Byte
  | .imm m => [hiByte m, loByte m]
  | .mem o => o.bytes

/-- The column of a memory operand: direct, indexed, extended in steps of $10 (30_encoding.md R83). -/
def Mem.column : Mem → Byte
  | .dir _ => 0x10
  | .idx _ => 0x20
  | .ext _ => 0x30

/-- The column of an operand with an immediate form (30_encoding.md R83). -/
def Src8.column : Src8 → Byte
  | .imm _ => 0x00
  | .mem o => o.column

/-- The column of an operand with an immediate form (30_encoding.md R83). -/
def Src16.column : Src16 → Byte
  | .imm _ => 0x00
  | .mem o => o.column

/-- The accumulator-A operations stand in columns 8 to B, those of B in C to F (30_encoding.md R83). -/
def Acc.base : Acc → Byte
  | .a => 0x80
  | .b => 0xC0

/-- An accumulator as a register. -/
def Acc.reg : Acc → Reg
  | .a => .a
  | .b => .b

/-- A 16-bit register as the registers it is made of. -/
def Reg16.regs : Reg16 → List Reg
  | .d => [.a, .b]
  | .x => [.x]
  | .y => [.y]
  | .u => [.u]
  | .s => [.s]

/-- A 16-bit load arms NMI if it loads S (60_exceptions.md R338). -/
def Reg16.arms : Reg16 → Bool
  | .s => true
  | .d | .x | .y | .u => false

/-- ADD of an accumulator and an operand. -/
def addForm : Acc → Src8 → Instr
  | .a => byMode8 .addaImm .addaDir .addaIdx .addaExt
  | .b => byMode8 .addbImm .addbDir .addbIdx .addbExt

/-- ADC of an accumulator and an operand. -/
def adcForm : Acc → Src8 → Instr
  | .a => byMode8 .adcaImm .adcaDir .adcaIdx .adcaExt
  | .b => byMode8 .adcbImm .adcbDir .adcbIdx .adcbExt

/-- SUB of an accumulator and an operand. -/
def subForm : Acc → Src8 → Instr
  | .a => byMode8 .subaImm .subaDir .subaIdx .subaExt
  | .b => byMode8 .subbImm .subbDir .subbIdx .subbExt

/-- SBC of an accumulator and an operand. -/
def sbcForm : Acc → Src8 → Instr
  | .a => byMode8 .sbcaImm .sbcaDir .sbcaIdx .sbcaExt
  | .b => byMode8 .sbcbImm .sbcbDir .sbcbIdx .sbcbExt

/-- CMP of an accumulator and an operand. -/
def cmpForm : Acc → Src8 → Instr
  | .a => byMode8 .cmpaImm .cmpaDir .cmpaIdx .cmpaExt
  | .b => byMode8 .cmpbImm .cmpbDir .cmpbIdx .cmpbExt

/-- AND of an accumulator and an operand. -/
def andForm : Acc → Src8 → Instr
  | .a => byMode8 .andaImm .andaDir .andaIdx .andaExt
  | .b => byMode8 .andbImm .andbDir .andbIdx .andbExt

/-- OR of an accumulator and an operand. -/
def orForm : Acc → Src8 → Instr
  | .a => byMode8 .oraImm .oraDir .oraIdx .oraExt
  | .b => byMode8 .orbImm .orbDir .orbIdx .orbExt

/-- EOR of an accumulator and an operand. -/
def eorForm : Acc → Src8 → Instr
  | .a => byMode8 .eoraImm .eoraDir .eoraIdx .eoraExt
  | .b => byMode8 .eorbImm .eorbDir .eorbIdx .eorbExt

/-- BIT of an accumulator and an operand. -/
def bitForm : Acc → Src8 → Instr
  | .a => byMode8 .bitaImm .bitaDir .bitaIdx .bitaExt
  | .b => byMode8 .bitbImm .bitbDir .bitbIdx .bitbExt

/-- LD of an accumulator. -/
def ldForm : Acc → Src8 → Instr
  | .a => byMode8 .ldaImm .ldaDir .ldaIdx .ldaExt
  | .b => byMode8 .ldbImm .ldbDir .ldbIdx .ldbExt

/-- ST of an accumulator. -/
def stForm : Acc → Mem → Instr
  | .a => byModeM .staDir .staIdx .staExt
  | .b => byModeM .stbDir .stbIdx .stbExt

/-- The bytes of an accumulator operation in row `n` of the opcode map (30_encoding.md R83). -/
def accBytes (r : Acc) (n : Byte) (o : Src8) : List Byte := (r.base + o.column + n) :: o.bytes

/-! ## Read-modify-write forms -/

/-- The operand of a read-modify-write instruction: an accumulator or a memory byte. -/
inductive Rmw where
  | acc (r : Acc)
  | mem (o : Mem)
  deriving DecidableEq, Repr

/-- The instruction of a read-modify-write operand. -/
def byRmw (a b : Instr) (dir : Byte → Instr) (idx : Idx → Instr) (ext : Word → Instr) : Rmw → Instr
  | .acc .a => a
  | .acc .b => b
  | .mem o => byModeM dir idx ext o

/-- NEG. -/
def negForm : Rmw → Instr := byRmw .nega .negb .negDir .negIdx .negExt

/-- COM. -/
def comForm : Rmw → Instr := byRmw .coma .comb .comDir .comIdx .comExt

/-- LSR. -/
def lsrForm : Rmw → Instr := byRmw .lsra .lsrb .lsrDir .lsrIdx .lsrExt

/-- ROR. -/
def rorForm : Rmw → Instr := byRmw .rora .rorb .rorDir .rorIdx .rorExt

/-- ASR. -/
def asrForm : Rmw → Instr := byRmw .asra .asrb .asrDir .asrIdx .asrExt

/-- ASL. -/
def aslForm : Rmw → Instr := byRmw .asla .aslb .aslDir .aslIdx .aslExt

/-- ROL. -/
def rolForm : Rmw → Instr := byRmw .rola .rolb .rolDir .rolIdx .rolExt

/-- DEC. -/
def decForm : Rmw → Instr := byRmw .deca .decb .decDir .decIdx .decExt

/-- INC. -/
def incForm : Rmw → Instr := byRmw .inca .incb .incDir .incIdx .incExt

/-- TST. -/
def tstForm : Rmw → Instr := byRmw .tsta .tstb .tstDir .tstIdx .tstExt

/-- CLR. -/
def clrForm : Rmw → Instr := byRmw .clra .clrb .clrDir .clrIdx .clrExt

/-- The bytes of a read-modify-write instruction in row `n`: columns 0, 6, 7 in memory, 4 and 5 on the accumulators
(30_encoding.md R83). -/
def rmwBytes (n : Byte) : Rmw → List Byte
  | .acc .a => [0x40 + n]
  | .acc .b => [0x50 + n]
  | .mem (.dir d) => n :: [d]
  | .mem (.idx ix) => (0x60 + n) :: encodeIdx ix
  | .mem (.ext a) => (0x70 + n) :: [hiByte a, loByte a]

/-- The operand of a read-modify-write instruction before it. -/
def Rmw.value (s : State) : Rmw → Byte
  | .acc r => s.acc r
  | .mem o => (s.afterEA o).readByte (s.ea o)

/-- `t` is the state after a read-modify-write that leaves `v` in its operand and may change the flags `fs`: one register
is written, or one byte of memory read with BUSY high and then written, a pointer register stepped. -/
def Rmw.Written (s t : State) (fs : List Flag) (v : Byte) : Rmw → Prop
  | .acc r => t.acc r = v ∧ Keeps s t [r.reg] fs ∧ KeepsMemory s t ∧ Makes s t []
  | .mem o =>
    Keeps (s.afterEA o) t [] fs ∧ Stores (s.afterEA o) t (s.ea o) [v] ∧
      Makes (s.afterEA o) t [⟨.store, s.ea o, v, false⟩, ⟨.load, s.ea o, (Rmw.mem o).value s, true⟩]

/-- `t` is the state after an operation that reads its operand and writes nothing but the flags `fs`. -/
def Rmw.Probed (s t : State) (fs : List Flag) : Rmw → Prop
  | .acc _ => Keeps s t [] fs ∧ KeepsMemory s t ∧ Makes s t []
  | .mem o =>
    Keeps (s.afterEA o) t [] fs ∧ KeepsMemory s t ∧
      Makes (s.afterEA o) t [⟨.load, s.ea o, (Rmw.mem o).value s, false⟩]

/-! ## 16-bit forms -/

/-- LD of a 16-bit register. -/
def ld16Form : Reg16 → Src16 → Instr
  | .d => byMode16 .lddImm .lddDir .lddIdx .lddExt
  | .x => byMode16 .ldxImm .ldxDir .ldxIdx .ldxExt
  | .y => byMode16 .ldyImm .ldyDir .ldyIdx .ldyExt
  | .u => byMode16 .lduImm .lduDir .lduIdx .lduExt
  | .s => byMode16 .ldsImm .ldsDir .ldsIdx .ldsExt

/-- ST of a 16-bit register. -/
def st16Form : Reg16 → Mem → Instr
  | .d => byModeM .stdDir .stdIdx .stdExt
  | .x => byModeM .stxDir .stxIdx .stxExt
  | .y => byModeM .styDir .styIdx .styExt
  | .u => byModeM .stuDir .stuIdx .stuExt
  | .s => byModeM .stsDir .stsIdx .stsExt

/-- CMP of a 16-bit register. -/
def cmp16Form : Reg16 → Src16 → Instr
  | .d => byMode16 .cmpdImm .cmpdDir .cmpdIdx .cmpdExt
  | .x => byMode16 .cmpxImm .cmpxDir .cmpxIdx .cmpxExt
  | .y => byMode16 .cmpyImm .cmpyDir .cmpyIdx .cmpyExt
  | .u => byMode16 .cmpuImm .cmpuDir .cmpuIdx .cmpuExt
  | .s => byMode16 .cmpsImm .cmpsDir .cmpsIdx .cmpsExt

/-- ADDD. -/
def adddForm : Src16 → Instr := byMode16 .adddImm .adddDir .adddIdx .adddExt

/-- SUBD. -/
def subdForm : Src16 → Instr := byMode16 .subdImm .subdDir .subdIdx .subdExt

/-- LEA of a pointer register. -/
def leaForm : Ptr → Idx → Instr
  | .x => .leax
  | .y => .leay
  | .s => .leas
  | .u => .leau

/-- A pointer register as a register of the 16-bit loads. -/
def ptrReg16 : Ptr → Reg16
  | .x => .x
  | .y => .y
  | .u => .u
  | .s => .s

/-- A pointer register as a register. -/
def ptrReg : Ptr → Reg
  | .x => .x
  | .y => .y
  | .u => .u
  | .s => .s

/-- JMP. -/
def jmpForm : Mem → Instr := byModeM .jmpDir .jmpIdx .jmpExt

/-- JSR. -/
def jsrForm : Mem → Instr := byModeM .jsrDir .jsrIdx .jsrExt

/-- The page prefix and first-column opcode of the 16-bit loads (30_encoding.md R84, R86). -/
def ld16Opcode : Reg16 → List Byte × Byte
  | .d => ([], 0xCC)
  | .x => ([], 0x8E)
  | .y => ([0x10], 0x8E)
  | .u => ([], 0xCE)
  | .s => ([0x10], 0xCE)

/-- The page prefix and first-column opcode of the 16-bit stores, whose first column is unused (30_encoding.md R84,
R86). -/
def st16Opcode : Reg16 → List Byte × Byte
  | .d => ([], 0xCD)
  | .x => ([], 0x8F)
  | .y => ([0x10], 0x8F)
  | .u => ([], 0xCF)
  | .s => ([0x10], 0xCF)

/-- The page prefix and first-column opcode of the 16-bit compares (30_encoding.md R84, R86, R87). -/
def cmp16Opcode : Reg16 → List Byte × Byte
  | .d => ([0x10], 0x83)
  | .x => ([], 0x8C)
  | .y => ([0x10], 0x8C)
  | .u => ([0x11], 0x83)
  | .s => ([0x11], 0x8C)

/-- The bytes of a 16-bit instruction with an immediate form. -/
def wideBytes (p : List Byte × Byte) (o : Src16) : List Byte := p.1 ++ (p.2 + o.column) :: o.bytes

/-- The bytes of a 16-bit instruction without one. -/
def wideMemBytes (p : List Byte × Byte) (o : Mem) : List Byte := p.1 ++ (p.2 + o.column) :: o.bytes

/-! ## Branches -/

/-- The short branches, opcodes $20 to $2F in the order of 43_branches.md R295. -/
def shortBranch (o : Byte) : Cond → Instr
  | .always => .bra o
  | .never => .brn o
  | .hi => .bhi o
  | .ls => .bls o
  | .cc => .bcc o
  | .cs => .bcs o
  | .ne => .bne o
  | .eq => .beq o
  | .vc => .bvc o
  | .vs => .bvs o
  | .pl => .bpl o
  | .mi => .bmi o
  | .ge => .bge o
  | .lt => .blt o
  | .gt => .bgt o
  | .le => .ble o

/-- The long branches, opcode $16 and page-2 opcodes $21 to $2F (43_branches.md R295). -/
def longBranch (o : Word) : Cond → Instr
  | .always => .lbra o
  | .never => .lbrn o
  | .hi => .lbhi o
  | .ls => .lbls o
  | .cc => .lbcc o
  | .cs => .lbcs o
  | .ne => .lbne o
  | .eq => .lbeq o
  | .vc => .lbvc o
  | .vs => .lbvs o
  | .pl => .lbpl o
  | .mi => .lbmi o
  | .ge => .lbge o
  | .lt => .lblt o
  | .gt => .lbgt o
  | .le => .lble o

/-- The number of a condition: the low nibble of its opcodes (43_branches.md R295). -/
def Cond.number : Cond → Byte
  | .always => 0x0
  | .never => 0x1
  | .hi => 0x2
  | .ls => 0x3
  | .cc => 0x4
  | .cs => 0x5
  | .ne => 0x6
  | .eq => 0x7
  | .vc => 0x8
  | .vs => 0x9
  | .pl => 0xA
  | .mi => 0xB
  | .ge => 0xC
  | .lt => 0xD
  | .gt => 0xE
  | .le => 0xF

/-- What the condition of a branch tests, in the words of 43_branches.md R295. -/
def Cond.Taken (s : State) : Cond → Prop
  | .always => True
  | .never => False
  | .hi => s.flag .c = false ∧ s.flag .z = false
  | .ls => s.flag .c = true ∨ s.flag .z = true
  | .cc => s.flag .c = false
  | .cs => s.flag .c = true
  | .ne => s.flag .z = false
  | .eq => s.flag .z = true
  | .vc => s.flag .v = false
  | .vs => s.flag .v = true
  | .pl => s.flag .n = false
  | .mi => s.flag .n = true
  | .ge => s.flag .n = s.flag .v
  | .lt => s.flag .n ≠ s.flag .v
  | .gt => s.flag .z = false ∧ s.flag .n = s.flag .v
  | .le => s.flag .z = true ∨ s.flag .n ≠ s.flag .v

/-! ## Stacks -/

/-- The pointer of a stack as a register. -/
def Stack.reg : Stack → Reg
  | .s => .s
  | .u => .u

/-- The two bytes of a word as a push leaves them, the high one at the lower address (20_memory.md R65). -/
def wordBytes (v : Word) : List Byte := [hiByte v, loByte v]

/-- The bytes a push of the registers of a list leaves, from the new top up: CC lowest, PC highest (20_memory.md R66). -/
def State.pushedBytes (s : State) (k : Stack) (l : RegList) : List Byte :=
  (if l.cc then [s.cc] else []) ++ (if l.a then [s.a] else []) ++ (if l.b then [s.b] else []) ++
  (if l.dp then [s.dp] else []) ++ (if l.x then wordBytes s.x else []) ++ (if l.y then wordBytes s.y else []) ++
  (if l.other then wordBytes (s.other k) else []) ++ (if l.pc then wordBytes s.pc else [])

/-- The number of bytes of the registers of a list (20_memory.md R66). -/
def listSize (l : RegList) : Nat :=
  l.cc.toNat + l.a.toNat + l.b.toNat + l.dp.toNat + 2 * l.x.toNat + 2 * l.y.toNat + 2 * l.other.toNat + 2 * l.pc.toNat

/-- The twelve bytes of the entire state, CC as given (20_memory.md R66). -/
def State.entireFrame (s : State) (cc : Byte) : List Byte :=
  [cc, s.a, s.b, s.dp, hiByte s.x, loByte s.x, hiByte s.y, loByte s.y, hiByte s.u, loByte s.u, hiByte s.pc, loByte s.pc]

/-- The byte `i` places above the first of the bytes pulled. -/
def pulled (bs : List Byte) (i : Nat) : Byte := bs.getD i 0

/-- The word there, its high byte first (20_memory.md R65). -/
def pulledWord (bs : List Byte) (i : Nat) : Word := word (pulled bs i) (pulled bs (i + 1))

/-- How far above the top of the stack a pull finds A, B, DP, X, Y, the other pointer and PC, those before it in the list
being pulled first (20_memory.md R66). -/
def offA (l : RegList) : Nat := l.cc.toNat
/-- See `offA`. -/
def offB (l : RegList) : Nat := offA l + l.a.toNat
/-- See `offA`. -/
def offDp (l : RegList) : Nat := offB l + l.b.toNat
/-- See `offA`. -/
def offX (l : RegList) : Nat := offDp l + l.dp.toNat
/-- See `offA`. -/
def offY (l : RegList) : Nat := offX l + 2 * l.x.toNat
/-- See `offA`. -/
def offOther (l : RegList) : Nat := offY l + 2 * l.y.toNat
/-- See `offA`. -/
def offPc (l : RegList) : Nat := offOther l + 2 * l.other.toNat

/-! ## What an instruction may do, by the spec's lists -/

/-- The instructions whose completion arms NMI (60_exceptions.md R338). -/
def armsNmi : Instr → Bool
  | .ldsImm _ | .ldsDir _ | .ldsIdx _ | .ldsExt _ | .leas _ => true
  | .exg r1 r2 => r1 == .s || r2 == .s
  | .tfr _ r2 => r2 == .s
  | .pulu l => l.other
  | _ => false

/-- The instructions that can write DP (10_state.md R25). -/
def writesDp : Instr → Bool
  | .exg r1 r2 => r1 == .dp || r2 == .dp
  | .tfr _ r2 => r2 == .dp
  | .puls l | .pulu l => l.dp
  | .rti => true
  | _ => false

/-- The instructions that write the whole of CC (10_state.md R28, R35). -/
def writesCc : Instr → Bool
  | .exg r1 r2 => r1 == .cc || r2 == .cc
  | .tfr _ r2 => r2 == .cc
  | .puls l | .pulu l => l.cc
  | .andcc _ | .orcc _ | .cwai _ | .rti => true
  | _ => false

/-- The software interrupts. -/
def isSwi : Instr → Bool
  | .swi | .swi2 | .swi3 => true
  | _ => false

/-! ## The step's environment -/

/-- Whether an NMI is pending and armed once this step's edge is latched (60_exceptions.md R331, R334). -/
def State.nmiReady (s : State) : Bool := (s.nmiPending || s.nextInputs.nmiEdge) && s.nmiArmed

/-- Whether a FIRQ is visible and not masked (60_exceptions.md R335). -/
def State.firqReady (s : State) : Bool := s.nextInputs.firq && !s.flag .f

/-- Whether an IRQ is visible and not masked (60_exceptions.md R336). -/
def State.irqReady (s : State) : Bool := s.nextInputs.irq && !s.flag .i

/-- The state at the boundary: other bus masters have written, an NMI edge is latched. -/
def State.boundary (s : State) : State := s.beginStep.latchNmi s.nextInputs

/-- The step neither resets nor halts the MPU (60_exceptions.md R331). -/
def State.proceeds (s : State) : Prop :=
  s.nextInputs.reset = false ∧ (s.runState = .running → s.nextInputs.halt = false)

end Sys2Proof.Machine
end

