-- ==== Sys2Proof/Machine/Launch.lean ====
section
/-! DEFINITION. How a run starts: what the launch supplies, and the power-on reset (00_scope.md R8,
70_reset_and_hazards.md R380, R397). -/

namespace Sys2Proof.Machine

/-- The parameters of a launch (00_scope.md R8): `VERSION`, `MEMORY_MAP`, the device function (20_memory.md R59) and the other bus
masters, in `platform`; `INITIAL_MEMORY`, with the values drawn for the bytes it does not give (R59); what the devices hold; the
environment at the two accesses of the power-on reset and then at the steps; and the values drawn for the registers and flags
without a reset value (10_state.md R46). `END_CONDITION` is a parameter of `runUntil`. -/
structure Launch where
  platform : Platform
  memory : List (Word × Byte)
  drawn : Word → Byte
  held : Nat
  resetCycles : List Cycle
  inputs : List Inputs
  draws : ResetDraws

/-- The byte that a list gives an address; the first pair of an address wins (log entry 15). -/
def givenByte : List (Word × Byte) → Word → Option Byte
  | [], _ => none
  | (k, v) :: rest, a => if k = a then some v else givenByte rest a

/-- The byte an address holds at the start of a run (20_memory.md R59). -/
def Launch.initialByte (l : Launch) (a : Word) : Byte := (givenByte l.memory a).getD (l.drawn a)

/-- Memory in canonical form with the bytes of `f` at the `n` addresses from `lo` on. -/
def Memory.fill (f : Nat → Byte) (lo : Nat) : Nat → Memory
  | 0 => []
  | n + 1 => if f lo = unlistedByte then Memory.fill f (lo + 1) n else (lo, f lo) :: Memory.fill f (lo + 1) n

/-- The memory a run starts with, the whole address space. -/
def Launch.initialMemory (l : Launch) : Memory := Memory.fill (fun a => l.initialByte (BitVec.ofNat 16 a)) 0 65536

/-- The machine with its memory loaded, before the power-on reset, which reads the reset vector from this bus. -/
def Launch.loaded (l : Launch) : State :=
  { State.reset with
    bus := { platform := l.platform, mem := l.initialMemory, held := l.held, cycles := l.resetCycles, trace := [] }
    inputs := l.inputs }

/-- The state in which a run starts: memory loaded, then `Reset()` (70_reset_and_hazards.md R380). -/
def Launch.start (l : Launch) : State := l.loaded.resetTo l.draws

/-- The launch that supplies nothing, every draw zero: it starts in `State.reset` (log entries 1, 2, 9, 10, 11, 32). -/
def Launch.empty : Launch where
  platform := Platform.plain
  memory := []
  drawn := fun _ => 0
  held := 0
  resetCycles := []
  inputs := []
  draws := ⟨0, 0, 0, 0, 0, 0, 0⟩

end Sys2Proof.Machine
end

