-- ==== Sys2Proof/Certificates/Slice0/Obligations.lean ====
section
/-! DEFINITION. The statements for the provers. In a statement about exec, the pc of the state before is the address of the next
instruction, as it is when an instruction's operation begins (10_state.md R26); that a step runs exec so is
`Obligations.StepRunsDecodedInstruction`. A clause `Makes` says which accesses the instruction makes, in which order and with
which BUSY (log entry 13): those its rule writes (20_memory.md R57, R62, R64, R65), of a word the high byte first (R63, the
spec's own decision D10), of a push the low byte first (R65); a clause `LoadsVector` says it of a vector too (R58, R63, D10);
and that the devices have the side effects of these (R59, log entry 9). -/

open Sys2Proof Sys2Proof.Machine

/-! ## Decoding -/

/-- Decoding the encoding of a well-formed instruction gives it back, whatever bytes follow, with its length
(30_encoding.md R80, R89). -/
def Obligations.DecodeOfEncode : Prop :=
  ∀ (i : Instr) (rest : List Byte), i.wf = true →
    decode (Window.ofList (encode i ++ rest)) = .instr i (encode i).length

/-- What the decoder answers is a well-formed instruction of 1 to 5 bytes, its encoding has that length, and the bytes after
that length decide nothing (30_encoding.md R81, R91). -/
def Obligations.DecodedInstructionIsWellFormed : Prop :=
  ∀ (bs : List Byte) (i : Instr) (n : Nat), decode (Window.ofList bs) = .instr i n →
    i.wf = true ∧ n = (encode i).length ∧ 1 ≤ n ∧ n ≤ 5 ∧
    ∀ rest : List Byte, decode (Window.ofList ((bs ++ List.replicate 5 0).take n ++ rest)) = .instr i n

/-- Words written out from the spec's encodings, one for each way an operand is laid out, decode to the instructions they
stand for (30_encoding.md R84, R86, R87, R97, R98, R109, R111). -/
def Obligations.SampleWordsDecode : Prop :=
  decode (Window.ofList [0x8B, 0x80]) = .instr (.addaImm 0x80) 2 ∧
  decode (Window.ofList [0x8E, 0x80, 0x04]) = .instr (.ldxImm 0x8004) 3 ∧
  decode (Window.ofList [0x96, 0x9B]) = .instr (.ldaDir 0x9B) 2 ∧
  decode (Window.ofList [0xFE, 0x20, 0x00]) = .instr (.lduExt 0x2000) 3 ∧
  decode (Window.ofList [0x30, 0x8D, 0xE2, 0x8A]) = .instr (.leax (.pcr16 false 0xE28A)) 4 ∧
  decode (Window.ofList [0x10, 0xAE, 0x89, 0x03, 0xE8]) = .instr (.ldyIdx (.off16 .x false 0x03E8)) 5 ∧
  decode (Window.ofList [0xA6, 0x9F, 0xF0, 0x00]) = .instr (.ldaIdx (.extInd 0xF000)) 4 ∧
  decode (Window.ofList [0x32, 0x76]) = .instr (.leas (.off5 .s 0x16)) 2 ∧
  decode (Window.ofList [0x1F, 0x89]) = .instr (.tfr .a .b) 2 ∧
  decode (Window.ofList [0x34, 0x56]) = .instr (.pshs ⟨false, true, false, true, false, true, true, false⟩) 2 ∧
  decode (Window.ofList [0x20, 0xFE]) = .instr (.bra 0xFE) 2 ∧
  decode (Window.ofList [0x10, 0x2B, 0x01, 0x00]) = .instr (.lbmi 0x0100) 4 ∧
  decode (Window.ofList [0x11, 0x3F]) = .instr .swi3 2

/-- The unused opcodes of the three pages, and no others, are illegal (30_encoding.md R90). -/
def Obligations.UnusedOpcodesAreIllegal : Prop :=
  ∀ w : Window,
    ((∃ bs, decode w = .illegalOpcode bs) ↔
      (w.b0.toNat ∈ [0x01, 0x02, 0x05, 0x0B, 0x14, 0x15, 0x18, 0x1B, 0x38, 0x3E, 0x41, 0x42, 0x45, 0x4B, 0x4E, 0x51, 0x52,
        0x55, 0x5B, 0x5E, 0x61, 0x62, 0x65, 0x6B, 0x71, 0x72, 0x75, 0x7B, 0x87, 0x8F, 0xC7, 0xCD, 0xCF] ∨
      (w.b0.toNat = 0x10 ∧ w.b1.toNat ∉ [0x21, 0x22, 0x23, 0x24, 0x25, 0x26, 0x27, 0x28, 0x29, 0x2A, 0x2B, 0x2C, 0x2D, 0x2E,
        0x2F, 0x3F, 0x83, 0x8C, 0x8E, 0x93, 0x9C, 0x9E, 0x9F, 0xA3, 0xAC, 0xAE, 0xAF, 0xB3, 0xBC, 0xBE, 0xBF, 0xCE, 0xDE,
        0xDF, 0xEE, 0xEF, 0xFE, 0xFF]) ∨
      (w.b0.toNat = 0x11 ∧ w.b1.toNat ∉ [0x3F, 0x83, 0x8C, 0x93, 0x9C, 0xA3, 0xAC, 0xB3, 0xBC]))) ∧
    (∀ bs, decode w = .illegalOpcode bs →
      bs = if w.b0.toNat = 0x10 ∨ w.b0.toNat = 0x11 then [w.b0, w.b1] else [w.b0])

/-- The 39 postbytes that an indexed instruction cannot have, and no others, are illegal (30_encoding.md R121). -/
def Obligations.IllegalIndexedPostbytes : Prop :=
  ∀ w : Window,
    let illegal (pb : Byte) : Prop :=
      pb.toNat ∈ [0x87, 0x8A, 0x8E, 0x97, 0x9A, 0x9E, 0xA7, 0xAA, 0xAE, 0xB7, 0xBA, 0xBE, 0xC7, 0xCA, 0xCE, 0xD7, 0xDA, 0xDE,
        0xE7, 0xEA, 0xEE, 0xF7, 0xFA, 0xFE, 0x90, 0xB0, 0xD0, 0xF0, 0x92, 0xB2, 0xD2, 0xF2, 0x8F, 0xAF, 0xCF, 0xEF, 0xBF,
        0xDF, 0xFF]
    (w.b0.toNat ∈ [0x30, 0x31, 0x32, 0x33, 0x60, 0x63, 0x64, 0x66, 0x67, 0x68, 0x69, 0x6A, 0x6C, 0x6D, 0x6E, 0x6F, 0xA0, 0xA1,
        0xA2, 0xA3, 0xA4, 0xA5, 0xA6, 0xA7, 0xA8, 0xA9, 0xAA, 0xAB, 0xAC, 0xAD, 0xAE, 0xAF, 0xE0, 0xE1, 0xE2, 0xE3, 0xE4,
        0xE5, 0xE6, 0xE7, 0xE8, 0xE9, 0xEA, 0xEB, 0xEC, 0xED, 0xEE, 0xEF] →
      (decode w = .illegalPostbyte w.b1 ↔ illegal w.b1)) ∧
    ((w.b0.toNat = 0x10 ∧ w.b1.toNat ∈ [0xA3, 0xAC, 0xAE, 0xAF, 0xEE, 0xEF]) ∨
        (w.b0.toNat = 0x11 ∧ w.b1.toNat ∈ [0xA3, 0xAC]) →
      (decode w = .illegalPostbyte w.b2 ↔ illegal w.b2)) ∧
    (∀ pb, decode w = .illegalPostbyte pb → illegal pb)

/-- An EXG or TFR postbyte is legal exactly if both its nibbles are among 0 to 5 or both among 8 to B, and then they name
the source and the destination (30_encoding.md R97, R122). -/
def Obligations.UndefinedRegisterCodes : Prop :=
  ∀ w : Window, w.b0.toNat = 0x1E ∨ w.b0.toNat = 0x1F →
    let hi := w.b1.toNat / 16
    let lo := w.b1.toNat % 16
    let legal : Prop := (hi ≤ 5 ∧ lo ≤ 5) ∨ (8 ≤ hi ∧ hi ≤ 11 ∧ 8 ≤ lo ∧ lo ≤ 11)
    (¬legal → decode w = .undefinedRegisterCode w.b1) ∧
    (legal → ∃ r1 r2, decode w = .instr (if w.b0.toNat = 0x1E then .exg r1 r2 else .tfr r1 r2) 2 ∧
      (xregCode r1).toNat = hi ∧ (xregCode r2).toNat = lo)

/-! ## The step -/

/-- With no reset, no halt and no interrupt ready, a running MPU fetches the instruction at the pc, byte by byte at ascending
addresses, as memory holds it, and runs what the bytes decode to, with the pc moved past them and nothing else changed since the
boundary (60_exceptions.md R331, 10_state.md R26, 30_encoding.md R91). The model's readings: that all bytes are fetched before the
operation and no byte more is the spec's own decision D14 (log entry 27); that BUSY is high at the first byte of a 16-bit immediate
operand and of an extended JMP's address and low at every other byte is read from 20_memory.md R64 by inference (log entry 13);
that an interrupt is looked at at the boundary only is decision D11 (log entry 22). -/
def Obligations.StepRunsDecodedInstruction : Prop :=
  ∀ (s : State) (i : Instr) (n : Nat), s.proceeds → s.runState = .running →
    s.nmiReady = false → s.firqReady = false → s.irqReady = false →
    let bytes := s.boundary.fetch.1
    let mid := s.boundary.fetch.2
    decode (Window.ofList bytes) = .instr i n →
    step s = exec i mid ∧ bytes.length = n ∧ mid.pc = above s.pc n ∧ Reads s.boundary s.pc bytes ∧
    Makes s.boundary mid (fetches s.pc [] bytes).reverse ∧
    Keeps s.boundary mid [.pc] [] ∧ KeepsMemory s.boundary mid

/-- Bytes that are no instruction stop the model at the address of the first of them, and an EXG or TFR term of unlike
registers, which no bytes decode to, stops likewise. The chip's behaviour is not claimed: the stop is the spec's and the
model's choice (00_scope.md R13, log entry 14). -/
def Obligations.UndefinedEncodingsStop : Prop :=
  (∀ s : State, s.proceeds → s.runState = .running → s.nmiReady = false → s.firqReady = false → s.irqReady = false →
    (∀ bs, decode (Window.ofList s.boundary.fetch.1) = .illegalOpcode bs → step s = .fault (.illegalOpcode s.pc bs)) ∧
    (∀ pb, decode (Window.ofList s.boundary.fetch.1) = .illegalPostbyte pb → step s = .fault (.illegalPostbyte s.pc pb)) ∧
    (∀ pb, decode (Window.ofList s.boundary.fetch.1) = .undefinedRegisterCode pb →
      step s = .fault (.undefinedRegisterCode s.pc pb))) ∧
  (∀ (r1 r2 : XReg) (s : State), r1.is8 ≠ r2.is8 →
    (∃ f, exec (.exg r1 r2) s = .fault f) ∧ (∃ f, exec (.tfr r1 r2) s = .fault f))

/-- Every well-formed instruction completes. -/
def Obligations.WellFormedInstructionsComplete : Prop :=
  ∀ (i : Instr) (s : State), i.wf = true → ∃ t, exec i s = .next t

/-- The invariant is kept by every step from every state that has it: memory stays in its canonical form, E stays set while the
MPU waits in CWAI (44_miscellaneous.md R302, 60_exceptions.md R355), and no step ends between two accesses that BUSY makes
indivisible (20_memory.md R64). -/
def Obligations.InvKeptByStep : Prop := ∀ s t : State, Inv s → step s = .next t → Inv t

/-- The invariant holds after reset, and at the start of every launch. -/
def Obligations.InvAtReset : Prop := Inv State.reset ∧ ∀ l : Launch, Inv l.start

/-- A step whose input is a reset performs the reset from any run state: F and I set, DP cleared, NMI unarmed and not pending,
running, pc loaded from the reset vector, nothing stacked and memory kept (60_exceptions.md R358, 70_reset_and_hazards.md R380).
The other registers and flags are left open, since the rules keep them and the spec's decision D7 draws them anew: the model's
choice, log entry 3. That the vector's high byte is read first is the spec's own decision D10 (20_memory.md R63, log entry 13). -/
def Obligations.ResetStep : Prop :=
  ∀ s : State, s.nextInputs.reset = true →
    ∃ t, step s = .next t ∧
      t.flag .f = true ∧ t.flag .i = true ∧ t.dp = 0 ∧ t.nmiArmed = false ∧ t.nmiPending = false ∧ t.runState = .running ∧
      LoadsVector s.beginStep t 0xFFFE [] ∧ KeepsMemory s.beginStep t ∧
      t.bus.platform = s.bus.platform ∧ t.inputs = s.inputs.tail ∧ t.tick = s.tick + 1

/-- A run starts with the values that reset gives, the pc read from the reset vector on the bus of the launch, high byte first,
the platform of the launch with its device function, and the launch's drawn values in every register and flag that reset leaves
unspecified and in every byte of memory that `INITIAL_MEMORY` does not give (10_state.md R45, R46, 20_memory.md R58, R59); that
the draws are parameters of the launch is log entry 2, and that the first pair of an address counts is log entry 15. That the
vector's high byte is read first is the spec's own decision D10 (20_memory.md R63), with BUSY high as log entry 13 reads R64. -/
def Obligations.LaunchStartsAfterReset : Prop :=
  ∀ l : Launch,
    l.start.dp = 0 ∧ l.start.flag .f = true ∧ l.start.flag .i = true ∧ l.start.nmiArmed = false ∧
    l.start.nmiPending = false ∧ l.start.runState = .running ∧ l.start.bus.platform = l.platform ∧
    l.start.inputs = l.inputs ∧
    LoadsVector l.loaded l.start 0xFFFE [] ∧ KeepsMemory l.loaded l.start ∧
    l.loaded.bus.platform = l.platform ∧ l.loaded.bus.held = l.held ∧ l.loaded.bus.cycles = l.resetCycles ∧
    l.loaded.trace = [] ∧
    l.start.a = l.draws.a ∧ l.start.b = l.draws.b ∧ l.start.x = l.draws.x ∧ l.start.y = l.draws.y ∧
    l.start.u = l.draws.u ∧ l.start.sp = l.draws.sp ∧
    (∀ k, k ∉ [Flag.f, Flag.i] → l.start.flag k = getFlag l.draws.cc k) ∧
    (∀ a, l.loaded.mem.read a.toNat = l.initialByte a) ∧
    (∀ a v rest, l.memory = (a, v) :: rest → l.initialByte a = v) ∧
    (∀ a, a ∉ l.memory.map Prod.fst → l.initialByte a = l.drawn a)

/-- A pending, armed NMI is taken first, unless the MPU waits in CWAI: twelve bytes stacked with E set, I and F masked, the
latch cleared, pc from $FFFC (60_exceptions.md R337, R340). That the vector's high byte is read first is the spec's own
decision D10 (20_memory.md R63), with BUSY high as log entry 13 reads R64. -/
def Obligations.NmiEntry : Prop :=
  ∀ s : State, s.proceeds → s.runState ≠ .cwaiWaiting → s.nmiReady = true →
    ∃ t, step s = .next t ∧
      t.sp = s.sp - 12 ∧
      LoadsVector s.boundary t 0xFFFC (accesses .push (s.sp - 12) (s.entireFrame (s.cc ||| 0x80))) ∧
      Stores s.boundary t (s.sp - 12) (s.entireFrame (s.cc ||| 0x80)) ∧
      t.flag .e = true ∧ t.flag .i = true ∧ t.flag .f = true ∧
      KeepsRegs s t [.s, .pc] ∧ KeepsFlags s t [.e, .i, .f] ∧
      t.nmiPending = false ∧ t.nmiArmed = true ∧ t.runState = .running ∧
      t.bus.platform = s.bus.platform ∧ t.inputs = s.inputs.tail ∧ t.tick = s.tick + 1

/-- An unmasked FIRQ is taken if no NMI is, unless the MPU waits in CWAI: three bytes stacked with E clear, I and F masked,
pc from $FFF6 (60_exceptions.md R341). That the vector's high byte is read first is the spec's own
decision D10 (20_memory.md R63), with BUSY high as log entry 13 reads R64. -/
def Obligations.FirqEntry : Prop :=
  ∀ s : State, s.proceeds → s.runState ≠ .cwaiWaiting → s.nmiReady = false → s.firqReady = true →
    ∃ t, step s = .next t ∧
      t.sp = s.sp - 3 ∧
      LoadsVector s.boundary t 0xFFF6 (accesses .push (s.sp - 3) [s.cc &&& 0x7F, hiByte s.pc, loByte s.pc]) ∧
      Stores s.boundary t (s.sp - 3) [s.cc &&& 0x7F, hiByte s.pc, loByte s.pc] ∧
      t.flag .e = false ∧ t.flag .i = true ∧ t.flag .f = true ∧
      KeepsRegs s t [.s, .pc] ∧ KeepsFlags s t [.e, .i, .f] ∧
      t.nmiPending = (s.nmiPending || s.nextInputs.nmiEdge) ∧ t.nmiArmed = s.nmiArmed ∧ t.runState = .running ∧
      t.bus.platform = s.bus.platform ∧ t.inputs = s.inputs.tail ∧ t.tick = s.tick + 1

/-- An unmasked IRQ is taken if neither NMI nor FIRQ is, unless the MPU waits in CWAI: twelve bytes stacked with E set, I
masked and F left alone, pc from $FFF8 (60_exceptions.md R342). That the vector's high byte is read first is the spec's own
decision D10 (20_memory.md R63), with BUSY high as log entry 13 reads R64. -/
def Obligations.IrqEntry : Prop :=
  ∀ s : State, s.proceeds → s.runState ≠ .cwaiWaiting → s.nmiReady = false → s.firqReady = false → s.irqReady = true →
    ∃ t, step s = .next t ∧
      t.sp = s.sp - 12 ∧
      LoadsVector s.boundary t 0xFFF8 (accesses .push (s.sp - 12) (s.entireFrame (s.cc ||| 0x80))) ∧
      Stores s.boundary t (s.sp - 12) (s.entireFrame (s.cc ||| 0x80)) ∧
      t.flag .e = true ∧ t.flag .i = true ∧
      KeepsRegs s t [.s, .pc] ∧ KeepsFlags s t [.e, .i] ∧
      t.nmiPending = (s.nmiPending || s.nextInputs.nmiEdge) ∧ t.nmiArmed = s.nmiArmed ∧ t.runState = .running ∧
      t.bus.platform = s.bus.platform ∧ t.inputs = s.inputs.tail ∧ t.tick = s.tick + 1

/-- The CWAI wait ends in the entry of the interrupt that is ready, in the order NMI, FIRQ, IRQ, with nothing stacked; the
live E after FIRQ is left open (60_exceptions.md R355, R356). With none ready it goes on and only the environment's part
changes. That the vector's high byte is read first is the spec's own
decision D10 (20_memory.md R63), with BUSY high as log entry 13 reads R64. -/
def Obligations.CwaiWaitEndsInEntry : Prop :=
  ∀ s : State, s.nextInputs.reset = false → s.runState = .cwaiWaiting →
    ∃ t, step s = .next t ∧ KeepsMemory s.boundary t ∧
      t.bus.platform = s.bus.platform ∧ t.inputs = s.inputs.tail ∧ t.tick = s.tick + 1 ∧ t.nmiArmed = s.nmiArmed ∧
      (s.nmiReady = true →
        LoadsVector s.boundary t 0xFFFC [] ∧ t.flag .i = true ∧ t.flag .f = true ∧ KeepsFlags s t [.i, .f] ∧
        KeepsRegs s t [.pc] ∧ t.nmiPending = false ∧ t.runState = .running) ∧
      (s.nmiReady = false → t.nmiPending = (s.nmiPending || s.nextInputs.nmiEdge)) ∧
      (s.nmiReady = false → s.firqReady = true →
        LoadsVector s.boundary t 0xFFF6 [] ∧ t.flag .i = true ∧ t.flag .f = true ∧ KeepsFlags s t [.e, .i, .f] ∧
        KeepsRegs s t [.pc] ∧ t.runState = .running) ∧
      (s.nmiReady = false → s.firqReady = false → s.irqReady = true →
        LoadsVector s.boundary t 0xFFF8 [] ∧ t.flag .i = true ∧ KeepsFlags s t [.i] ∧
        KeepsRegs s t [.pc] ∧ t.runState = .running) ∧
      (s.nmiReady = false → s.firqReady = false → s.irqReady = false →
        t.runState = .cwaiWaiting ∧ KeepsRegs s t [] ∧ KeepsFlags s t [] ∧ Makes s.boundary t [])

/-- A masked request or a short pulse ends the syncing state with no entry and nothing stacked; with no request and no
latched NMI it goes on (60_exceptions.md R352, R353). -/
def Obligations.SyncContinuesOnMaskedRequest : Prop :=
  ∀ s : State, s.nextInputs.reset = false → s.runState = .syncing →
    s.nmiReady = false → s.firqReady = false → s.irqReady = false →
    let request := s.nextInputs.firq || s.nextInputs.irq || s.nextInputs.shortPulse
    (request = true ∨ (s.nmiPending || s.nextInputs.nmiEdge) = false) →
    ∃ t, step s = .next t ∧ t.runState = (if request then .running else .syncing) ∧
      t.nmiPending = (s.nmiPending || s.nextInputs.nmiEdge) ∧ t.nmiArmed = s.nmiArmed ∧
      KeepsRegs s t [] ∧ KeepsFlags s t [] ∧ KeepsMemory s.boundary t ∧ Makes s.boundary t [] ∧
      t.bus.platform = s.bus.platform ∧ t.inputs = s.inputs.tail ∧ t.tick = s.tick + 1

/-- An NMI latched before arming is not entered in the syncing state: the MPU runs on or stays, either being possible, with
the latch set (60_exceptions.md R354). That a free value decides is log entry 7. -/
def Obligations.UnarmedNmiInSync : Prop :=
  ∀ s : State, s.nextInputs.reset = false → s.runState = .syncing → s.nmiArmed = false →
    (s.nmiPending || s.nextInputs.nmiEdge) = true → s.firqReady = false → s.irqReady = false →
    ∃ t, step s = .next t ∧ (t.runState = .running ∨ t.runState = .syncing) ∧
      t.nmiPending = true ∧ t.nmiArmed = false ∧ KeepsRegs s t [] ∧ KeepsFlags s t [] ∧ KeepsMemory s.boundary t ∧
      Makes s.boundary t []

/-- A halted step latches an NMI edge and changes nothing else of the MPU (60_exceptions.md R357). -/
def Obligations.HaltedStep : Prop :=
  ∀ s : State, s.nextInputs.reset = false → s.nextInputs.halt = true → s.runState = .running →
    ∃ t, step s = .next t ∧ t.nmiPending = (s.nmiPending || s.nextInputs.nmiEdge) ∧ t.nmiArmed = s.nmiArmed ∧
      t.runState = .running ∧ KeepsRegs s t [] ∧ KeepsFlags s t [] ∧ KeepsMemory s.boundary t ∧ Makes s.boundary t [] ∧
      t.bus.platform = s.bus.platform ∧ t.inputs = s.inputs.tail ∧ t.tick = s.tick + 1

/-- Other bus masters write RAM and devices and no MPU register: between instructions and in the syncing state always; in the CWAI
wait only by DMA/BREQ or TSC, since the MPU does not release the bus there; between two accesses of one instruction on an
MC6809 whose platform uses DMA/BREQ, and on an MC6809E whose platform uses TSC, there only while BUSY is low if they honour it.
An access finds what they wrote just before it; after one with BUSY high that is honoured the next finds memory as it was
(20_memory.md R56, R64, R72, 60_exceptions.md R355, R371, R372). The model's choices: that all their writes of a step are one list
at the boundary and one for each access is log entry 12; that with TSC and BUSY honoured they still write between two accesses
while BUSY is low, which joins R72 with R64 under decision D15, and which version counts which pin, is log entry 32. -/
def Obligations.BusMastersWriteBetweenAccesses : Prop :=
  ∀ s : State,
    KeepsRegs s s.boundary [] ∧ KeepsFlags s s.boundary [] ∧ s.boundary.bus.platform = s.bus.platform ∧
    (∀ a : Word, a ∉ s.nextInputs.busWrites.map Prod.fst ∨ kindAt s.memMap a ≠ .ram →
      s.boundary.mem.read a.toNat = s.mem.read a.toNat) ∧
    (s.runState ≠ .cwaiWaiting ∨ s.bus.platform.admits s.bus.busy = true →
      (s.mem.wf = true → ∀ (before : List (Word × Byte)) (a : Word) (v : Byte),
        s.nextInputs.busWrites = before ++ [(a, v)] → kindAt s.memMap a = .ram → s.boundary.mem.read a.toNat = v) ∧
      s.boundary.bus.held =
        s.nextInputs.busWrites.foldl (fun held w => s.bus.platform.heldAfter held ⟨.store, w.1, w.2, false⟩) s.bus.held) ∧
    (s.runState = .cwaiWaiting → s.bus.platform.admits s.bus.busy = false →
      s.boundary.mem = s.mem ∧ s.boundary.bus.held = s.bus.held) ∧
    (s.bus.platform.version = .mc6809 → ∀ busy, s.bus.platform.admits busy = s.bus.platform.dmaBreq) ∧
    (s.bus.platform.version = .mc6809e → ∀ busy,
      (s.bus.platform.admits busy = true ↔
        s.bus.platform.tsc = true ∧ (s.bus.platform.honoursBusy = true → busy = false))) ∧
    (∀ a : Word, kindAt s.memMap a = .ram →
      s.bus.platform.admits s.bus.busy = false ∨ a ∉ s.bus.cycle.writes.map Prod.fst → s.readByte a = s.mem.read a.toNat) ∧
    (s.mem.wf = true → s.bus.platform.admits s.bus.busy = true → ∀ (before : List (Word × Byte)) (a : Word) (v : Byte),
      s.bus.cycle.writes = before ++ [(a, v)] → kindAt s.memMap a = .ram → s.readByte a = v) ∧
    (s.bus.platform.version = .mc6809e → s.bus.platform.honoursBusy = true → ∀ (k : AccessKind) (a w : Word),
      kindAt s.memMap w = .ram → (s.didRead k true a).readByte w = s.readByte w)

/-! ## Addressing -/

/-- The effective address of every memory operand, with the step of a pointer register and nothing else changed; an indirect
address is read after that step, high byte first, and then the operand byte is read at the effective address
(30_encoding.md R94 to R96, R100 to R109, 20_memory.md R57). That the step comes first in every instruction is the spec's derivation
(30_encoding.md R110), and the order of the two bytes its decision D10. -/
def Obligations.EffectiveAddresses : Prop :=
  ∀ s : State,
    (∀ d, (s.ea (.dir d)).toNat = s.dp.toNat * 256 + d.toNat ∧ s.afterEA (.dir d) = s) ∧
    (∀ a, s.ea (.ext a) = a ∧ s.afterEA (.ext a) = s) ∧
    (∀ ix, ∃ base : Word,
      (base.toNat : Int) =
        (match ix with
        | .off5 r n => (s.ptr r).toNat + n.toInt
        | .zero r _ | .inc1 r | .inc2 r _ => (s.ptr r).toNat
        | .off8 r _ n => (s.ptr r).toNat + n.toInt
        | .off16 r _ n => (s.ptr r).toNat + n.toInt
        | .accA r _ => (s.ptr r).toNat + s.a.toInt
        | .accB r _ => (s.ptr r).toNat + s.b.toInt
        | .accD r _ => (s.ptr r).toNat + (s.a.toNat * 256 + s.b.toNat)
        | .dec1 r => (s.ptr r).toNat - 1
        | .dec2 r _ => (s.ptr r).toNat - 2
        | .pcr8 _ n => s.pc.toNat + n.toInt
        | .pcr16 _ n => s.pc.toNat + n.toInt
        | .extInd a => (a.toNat : Int)) % 65536 ∧
      (idxIndirect ix = false → s.ea (.idx ix) = base ∧ Makes s (s.afterEA (.idx ix)) []) ∧
      (idxIndirect ix = true → ∃ h l, s.ea (.idx ix) = word h l ∧ Reads s base [h, l] ∧
        Makes s (s.afterEA (.idx ix)) [⟨.pointer, base + 1, l, false⟩, ⟨.pointer, base, h, true⟩]) ∧
      KeepsMemory s (s.afterEA (.idx ix)) ∧
      (match ix with
      | .inc1 r => (s.afterEA (.idx ix)).ptr r = s.ptr r + 1 ∧ Keeps s (s.afterEA (.idx ix)) [ptrReg r] []
      | .inc2 r _ => (s.afterEA (.idx ix)).ptr r = s.ptr r + 2 ∧ Keeps s (s.afterEA (.idx ix)) [ptrReg r] []
      | .dec1 r => (s.afterEA (.idx ix)).ptr r = s.ptr r - 1 ∧ Keeps s (s.afterEA (.idx ix)) [ptrReg r] []
      | .dec2 r _ => (s.afterEA (.idx ix)).ptr r = s.ptr r - 2 ∧ Keeps s (s.afterEA (.idx ix)) [ptrReg r] []
      | .off5 _ _ | .zero _ _ | .off8 _ _ _ | .off16 _ _ _ | .accA _ _ | .accB _ _ | .accD _ _ | .pcr8 _ _ | .pcr16 _ _
      | .extInd _ => Keeps s (s.afterEA (.idx ix)) [] [])) ∧
    (∀ m, s.operand8 (.imm m) = m ∧ s.after8 (.imm m) = s) ∧
    (∀ o, Reads (s.afterEA o) (s.ea o) [s.operand8 (.mem o)] ∧
      Makes (s.afterEA o) (s.after8 (.mem o)) [⟨.load, s.ea o, s.operand8 (.mem o), false⟩] ∧
      Keeps (s.afterEA o) (s.after8 (.mem o)) [] [] ∧ KeepsMemory s (s.after8 (.mem o)))

/-! ## Rules of the whole machine -/

/-- NMI is armed by the completion of LDS, TFR to S, EXG with S, LEAS and PULU of S, and by no other instruction, and none
disarms it (60_exceptions.md R338; the list is the spec's own decision D8, log entry 16). -/
def Obligations.NmiArmedBySLoadsOnly : Prop :=
  ∀ (i : Instr) (s t : State), exec i s = .next t → t.nmiArmed = (s.nmiArmed || armsNmi i)

/-- DP is written by EXG, TFR, a pull or RTI that names it, and by no other instruction (10_state.md R25). -/
def Obligations.DirectPageWriters : Prop :=
  ∀ (i : Instr) (s t : State), exec i s = .next t → writesDp i = false → t.dp = s.dp

/-- E, F and I are changed only by the instructions that write the whole of CC and by the software interrupts, of which
SWI2 and SWI3 leave F and I alone (10_state.md R33, R35). -/
def Obligations.MaskAndEntireFlagWriters : Prop :=
  ∀ (i : Instr) (s t : State), exec i s = .next t → writesCc i = false →
    (isSwi i = false → t.flag .e = s.flag .e) ∧ (i ≠ .swi → t.flag .f = s.flag .f ∧ t.flag .i = s.flag .i)

/-- While running, only SYNC and CWAI leave the running state; no instruction touches the NMI latch, the memory map, the
environment or the model's counter (10_state.md R43). -/
def Obligations.RunStateLeftBySyncAndCwai : Prop :=
  ∀ (i : Instr) (s t : State), exec i s = .next t → s.runState = .running →
    t.runState = (match i with
      | .sync => .syncing
      | .cwai _ => .cwaiWaiting
      | _ => .running) ∧
    t.nmiPending = s.nmiPending ∧ KeepsPlatform s t

/-- What stands at an address decides its accesses: no step changes the byte that memory holds where there is no RAM; a read of
RAM or ROM that no other master disturbs finds the byte held; a read of a device finds what the launch's device function drives,
or the byte the world outside gives for it; and a read and a write of a device each have their side effect in it, all other
accesses none (20_memory.md R59, R60, R61). That the device function is plain data of the platform over a number that the devices
hold is log entry 9. -/
def Obligations.MemoryMapDecidesAccesses : Prop :=
  (∀ (s t : State) (a : Word), step s = .next t → kindAt s.memMap a ≠ .ram →
    t.memMap = s.memMap ∧ t.mem.read a.toNat = s.mem.read a.toNat) ∧
  (∀ (s : State) (a : Word), Settled s a → s.readByte a = s.mem.read a.toNat) ∧
  (∀ (s : State) (a : Word) (d : Device), kindAt s.memMap a = .device → s.bus.platform.device = some d →
    (∀ v, s.bus.cycle.data = some v → s.readByte a = v) ∧
    (DevicesUndisturbed s →
      (s.bus.cycle.data = none → (s.readByte a).toNat = d.drives.eval s.bus.held a.toNat 0 % 256) ∧
      (∀ k busy, isWrite k = false →
        (s.didRead k busy a).bus.held = d.afterRead.eval s.bus.held a.toNat (s.readByte a).toNat) ∧
      (∀ k busy v, isWrite k = true →
        (s.write k busy a v).bus.held = d.afterWrite.eval s.bus.held a.toNat v.toNat))) ∧
  (∀ (s : State) (a : Word), kindAt s.memMap a ≠ .device → DevicesUndisturbed s →
    (∀ k busy, (s.didRead k busy a).bus.held = s.bus.held) ∧ (∀ k busy v, (s.write k busy a v).bus.held = s.bus.held))

/-- A 16-bit value is stored with its high byte at the address and its low byte at the next, modulo 2^16, and is read back so;
the byte at the lower address is accessed first, also of a 16-bit operand, as the spec's own decision D10 says (20_memory.md R52,
R55, R63). -/
def Obligations.WordsAreBigEndian : Prop :=
  (∀ (s : State) (k : AccessKind) (a v : Word), Inv s → kindAt s.memMap a = .ram → kindAt s.memMap (a + 1) = .ram →
    Undisturbed s a → Undisturbed s (a + 1) →
    (s.writeWord k a v).readWord k a = v ∧
    ((s.writeWord k a v).readByte a).toNat = v.toNat / 256 ∧
    ((s.writeWord k a v).readByte (a + 1)).toNat = v.toNat % 256 ∧
    Stores s (s.writeWord k a v) a (wordBytes v) ∧
    Makes s (s.writeWord k a v) [⟨k, a + 1, loByte v, false⟩, ⟨k, a, hiByte v, true⟩]) ∧
  (∀ s : State,
    (∀ m, s.operand16 (.imm m) = m ∧ s.after16 (.imm m) = s) ∧
    (∀ o, ∃ h l, s.operand16 (.mem o) = word h l ∧ Reads (s.afterEA o) (s.ea o) [h, l] ∧
      Makes (s.afterEA o) (s.after16 (.mem o)) [⟨.load, s.ea o + 1, l, false⟩, ⟨.load, s.ea o, h, true⟩] ∧
      Keeps (s.afterEA o) (s.after16 (.mem o)) [] [] ∧ KeepsMemory s (s.after16 (.mem o))))

/-- A pull with the register list of the push before it restores the stack pointer and every register, the pc among them
(42_index_stack_pointer.md R235), where the bytes pushed go to RAM that no other bus master writes meanwhile. That the pc pushed is
that of the state, the address of the next instruction, is derived (10_state.md R26, log entry 18). -/
def Obligations.PullUndoesPush : Prop :=
  ∀ (k : Stack) (l : RegList) (s : State), Inv s →
    (∀ i, i < listSize l →
      kindAt s.memMap (above (s.top k - BitVec.ofNat 16 (listSize l)) i) = .ram ∧
      Undisturbed s (above (s.top k - BitVec.ofNat 16 (listSize l)) i)) →
    ∃ t u, exec (match k with | .s => .pshs l | .u => .pshu l) s = .next t ∧
      exec (match k with | .s => .puls l | .u => .pulu l) t = .next u ∧
      KeepsRegs s u [] ∧ KeepsFlags s u []

/-- RTI returns from every interrupt's frame, hardware or software: each register and the pc as before, and of CC only E
changed, to what was stacked (60_exceptions.md R348), where the frame goes to RAM that no other bus master writes meanwhile. The
order in which RTI pulls is the spec's derivation (91_not_in_source.md N41, log entry 28). -/
def Obligations.RtiUndoesEntry : Prop :=
  ∀ (e : Exc) (s : State), Inv s →
    (∀ i, i < 12 → kindAt s.memMap (above (s.sp - 12) i) = .ram ∧ Undisturbed s (above (s.sp - 12) i)) →
    ∃ t, exec .rti (s.enter e true) = .next t ∧
      KeepsRegs s t [] ∧ KeepsFlags s t [.e] ∧ t.flag .e = (e != .firq)

/-- An addition to A of two bytes in BCD, then DAA, is their sum in BCD with the carry out of the hundreds
(40_8bit_accumulator_memory.md R153, its low digit corrected by H as 90_conflicts.md C2 resolves, log entry 19). -/
def Obligations.DaaAfterAdditionIsDecimal : Prop :=
  ∀ (withCarry : Bool) (o : Src8) (s : State),
    let bcd (v : Byte) : Prop := v.toNat / 16 ≤ 9 ∧ v.toNat % 16 ≤ 9
    let value (v : Byte) : Nat := 10 * (v.toNat / 16) + v.toNat % 16
    bcd s.a → bcd (s.operand8 o) →
    ∃ t u, exec (if withCarry then adcForm .a o else addForm .a o) s = .next t ∧ exec .daa t = .next u ∧
      bcd u.a ∧
      value u.a + (if u.flag .c then 100 else 0) =
        value s.a + value (s.operand8 o) + (if withCarry && s.flag .c then 1 else 0)

/-! ## 8-bit accumulator and memory instructions -/

/-- ADD and ADC: the sum modulo 256, H the carry out of bit 3, V the signed overflow, C the carry out of bit 7
(40_8bit_accumulator_memory.md R131 to R134). -/
def Obligations.AddAndAdcEffect : Prop :=
  ∀ (withCarry : Bool) (r : Acc) (o : Src8) (s : State),
    let i := if withCarry then adcForm r o else addForm r o
    let a := s.acc r
    let m := s.operand8 o
    let c : Nat := if withCarry && s.flag .c then 1 else 0
    encode i = accBytes r (if withCarry then 0x9 else 0xB) o ∧
    ∃ t, exec i s = .next t ∧
      (t.acc r).toNat = (a.toNat + m.toNat + c) % 256 ∧
      t.flag .h = decide (15 < a.toNat % 16 + m.toNat % 16 + c) ∧ NZ8 t (t.acc r) ∧
      t.flag .v = decide (a.toInt + m.toInt + c < -128 ∨ 127 < a.toInt + m.toInt + c) ∧
      t.flag .c = decide (255 < a.toNat + m.toNat + c) ∧
      Keeps (s.after8 o) t [r.reg] [.h, .n, .z, .v, .c] ∧ KeepsMemory s t ∧ Makes (s.after8 o) t []

/-- SUB and SBC: the difference modulo 256, V the signed overflow, C the borrow, H undefined
(40_8bit_accumulator_memory.md R181, R182, R185, R186). -/
def Obligations.SubAndSbcEffect : Prop :=
  ∀ (withBorrow : Bool) (r : Acc) (o : Src8) (s : State),
    let i := if withBorrow then sbcForm r o else subForm r o
    let a := s.acc r
    let m := s.operand8 o
    let c : Nat := if withBorrow && s.flag .c then 1 else 0
    encode i = accBytes r (if withBorrow then 0x2 else 0x0) o ∧
    ∃ t, exec i s = .next t ∧
      ((t.acc r).toNat : Int) = (a.toNat - m.toNat - c : Int) % 256 ∧ NZ8 t (t.acc r) ∧
      t.flag .v = decide (a.toInt - m.toInt - c < -128 ∨ 127 < a.toInt - m.toInt - c) ∧
      t.flag .c = decide (a.toNat < m.toNat + c) ∧
      Keeps (s.after8 o) t [r.reg] [.h, .n, .z, .v, .c] ∧ KeepsMemory s t ∧ Makes (s.after8 o) t []

/-- CMP: the flags of the difference, no register written; afterwards C tells the unsigned order, Z equality and N ⊕ V the
signed order (40_8bit_accumulator_memory.md R148, R149). -/
def Obligations.CompareEffect : Prop :=
  ∀ (r : Acc) (o : Src8) (s : State),
    let a := s.acc r
    let m := s.operand8 o
    encode (cmpForm r o) = accBytes r 0x1 o ∧
    ∃ t, exec (cmpForm r o) s = .next t ∧
      NZ8 t (a - m) ∧ t.flag .v = decide (a.toInt - m.toInt < -128 ∨ 127 < a.toInt - m.toInt) ∧
      t.flag .c = decide (a.toNat < m.toNat) ∧ t.flag .z = decide (a = m) ∧
      (t.flag .n ^^ t.flag .v) = decide (a.toInt < m.toInt) ∧
      Keeps (s.after8 o) t [] [.h, .n, .z, .v, .c] ∧ KeepsMemory s t ∧ Makes (s.after8 o) t []

/-- AND, OR, EOR and BIT: the result bit by bit, BIT discarding it; N and Z of it, V cleared, H and C not affected
(40_8bit_accumulator_memory.md R135, R136, R143, R144, R157, R158, R173, R174). -/
def Obligations.LogicalEffect : Prop :=
  ∀ (r : Acc) (o : Src8) (s : State),
    let a := s.acc r
    let m := s.operand8 o
    let effect (i : Instr) (row : Byte) (written : List Reg) (op : Bool → Bool → Bool) (v : Byte) : Prop :=
      encode i = accBytes r row o ∧ (∀ j, j < 8 → v.getLsbD j = op (a.getLsbD j) (m.getLsbD j)) ∧
      ∃ t, exec i s = .next t ∧ t.acc r = (if written = [] then a else v) ∧ NZ8 t v ∧ t.flag .v = false ∧
        Keeps (s.after8 o) t written [.n, .z, .v] ∧ KeepsMemory s t ∧ Makes (s.after8 o) t []
    effect (andForm r o) 0x4 [r.reg] (· && ·) (a &&& m) ∧
    effect (orForm r o) 0xA [r.reg] (· || ·) (a ||| m) ∧
    effect (eorForm r o) 0x8 [r.reg] (· ^^ ·) (a ^^^ m) ∧
    effect (bitForm r o) 0x5 [] (· && ·) (a &&& m)

/-- LD and ST: the operand byte in the accumulator, the accumulator at the effective address; N and Z of it, V cleared
(40_8bit_accumulator_memory.md R163, R164, R183, R184). -/
def Obligations.LoadAndStoreEffect : Prop :=
  (∀ (r : Acc) (o : Src8) (s : State),
    encode (ldForm r o) = accBytes r 0x6 o ∧
    ∃ t, exec (ldForm r o) s = .next t ∧
      t.acc r = s.operand8 o ∧ NZ8 t (s.operand8 o) ∧ t.flag .v = false ∧
      Keeps (s.after8 o) t [r.reg] [.n, .z, .v] ∧ KeepsMemory s t ∧ Makes (s.after8 o) t []) ∧
  (∀ (r : Acc) (o : Mem) (s : State),
    encode (stForm r o) = (r.base + o.column + 0x7) :: o.bytes ∧
    ∃ t, exec (stForm r o) s = .next t ∧
      NZ8 t (s.acc r) ∧ t.flag .v = false ∧
      Keeps (s.afterEA o) t [] [.n, .z, .v] ∧ Stores (s.afterEA o) t (s.ea o) [s.acc r] ∧
      Makes (s.afterEA o) t [⟨.store, s.ea o, s.acc r, false⟩])

/-- NEG and COM: the twos and the ones complement of an accumulator or a memory byte, with their flags; H is undefined after
NEG and not affected by COM (40_8bit_accumulator_memory.md R150 to R152, R170 to R172).
BUSY is high during a memory operand's read and low during its write, as log entry 13 reads R64 (20_memory.md R62, R64). -/
def Obligations.NegAndComEffect : Prop :=
  ∀ (o : Rmw) (s : State),
    let m := o.value s
    (encode (negForm o) = rmwBytes 0x0 o ∧
      ∃ t v, exec (negForm o) s = .next t ∧ v.toNat = (256 - m.toNat) % 256 ∧ NZ8 t v ∧
        t.flag .v = decide (m = 0x80) ∧ t.flag .c = decide (m ≠ 0) ∧
        o.Written s t [.h, .n, .z, .v, .c] v) ∧
    (encode (comForm o) = rmwBytes 0x3 o ∧
      ∃ t v, exec (comForm o) s = .next t ∧ v.toNat = 255 - m.toNat ∧ NZ8 t v ∧
        t.flag .v = false ∧ t.flag .c = true ∧ o.Written s t [.n, .z, .v, .c] v)

/-- ASL, ASR and LSR of an accumulator or a memory byte: twice the operand, half of it signed, half of it unsigned; C the bit
shifted out; V by ASL only, as N ⊕ C; H undefined after ASL and ASR (40_8bit_accumulator_memory.md R137 to R142, R166 to
R168).
BUSY is high during a memory operand's read and low during its write, as log entry 13 reads R64 (20_memory.md R62, R64). -/
def Obligations.ShiftEffect : Prop :=
  ∀ (o : Rmw) (s : State),
    let m := o.value s
    (encode (aslForm o) = rmwBytes 0x8 o ∧
      ∃ t v, exec (aslForm o) s = .next t ∧ v.toNat = 2 * m.toNat % 256 ∧ NZ8 t v ∧
        t.flag .v = (m.getLsbD 7 ^^ m.getLsbD 6) ∧ t.flag .c = decide (128 ≤ m.toNat) ∧
        o.Written s t [.h, .n, .z, .v, .c] v) ∧
    (encode (asrForm o) = rmwBytes 0x7 o ∧
      ∃ t v, exec (asrForm o) s = .next t ∧ v.toInt = m.toInt / 2 ∧ NZ8 t v ∧
        t.flag .c = decide (m.toNat % 2 = 1) ∧ o.Written s t [.h, .n, .z, .c] v) ∧
    (encode (lsrForm o) = rmwBytes 0x4 o ∧
      ∃ t v, exec (lsrForm o) s = .next t ∧ v.toNat = m.toNat / 2 ∧ NZ8 t v ∧ t.flag .n = false ∧
        t.flag .c = decide (m.toNat % 2 = 1) ∧ o.Written s t [.n, .z, .c] v)

/-- ROL and ROR of an accumulator or a memory byte: a rotation of the nine bits of C and the operand; V by ROL only; H not
affected (40_8bit_accumulator_memory.md R175 to R180).
BUSY is high during a memory operand's read and low during its write, as log entry 13 reads R64 (20_memory.md R62, R64). -/
def Obligations.RotateEffect : Prop :=
  ∀ (o : Rmw) (s : State),
    let m := o.value s
    let c : Nat := if s.flag .c then 1 else 0
    (encode (rolForm o) = rmwBytes 0x9 o ∧
      ∃ t v, exec (rolForm o) s = .next t ∧ v.toNat + (if t.flag .c then 256 else 0) = 2 * m.toNat + c ∧ NZ8 t v ∧
        t.flag .v = (m.getLsbD 7 ^^ m.getLsbD 6) ∧ o.Written s t [.n, .z, .v, .c] v) ∧
    (encode (rorForm o) = rmwBytes 0x6 o ∧
      ∃ t v, exec (rorForm o) s = .next t ∧ 2 * v.toNat + (if t.flag .c then 1 else 0) = 256 * c + m.toNat ∧ NZ8 t v ∧
        o.Written s t [.n, .z, .c] v)

/-- INC and DEC of an accumulator or a memory byte: one more and one less modulo 256, V the signed overflow, C not affected
(40_8bit_accumulator_memory.md R154 to R156, R160 to R162).
BUSY is high during a memory operand's read and low during its write, as log entry 13 reads R64 (20_memory.md R62, R64). -/
def Obligations.IncAndDecEffect : Prop :=
  ∀ (o : Rmw) (s : State),
    let m := o.value s
    (encode (incForm o) = rmwBytes 0xC o ∧
      ∃ t v, exec (incForm o) s = .next t ∧ v.toNat = (m.toNat + 1) % 256 ∧ NZ8 t v ∧
        t.flag .v = decide (127 < m.toInt + 1) ∧ o.Written s t [.n, .z, .v] v) ∧
    (encode (decForm o) = rmwBytes 0xA o ∧
      ∃ t v, exec (decForm o) s = .next t ∧ v.toNat = (m.toNat + 255) % 256 ∧ NZ8 t v ∧
        t.flag .v = decide (m.toInt - 1 < -128) ∧ o.Written s t [.n, .z, .v] v)

/-- CLR and TST of an accumulator or a memory byte: CLR leaves zero, TST writes nothing but N, Z and V
(40_8bit_accumulator_memory.md R145 to R147, R187 to R189); CLR in memory reads the byte before it writes it, TST reads it only
(20_memory.md R57, R62), BUSY high during the read of CLR alone as log entry 13 reads R64. -/
def Obligations.ClrAndTstEffect : Prop :=
  ∀ (o : Rmw) (s : State),
    (encode (clrForm o) = rmwBytes 0xF o ∧
      ∃ t, exec (clrForm o) s = .next t ∧ t.flag .n = false ∧ t.flag .z = true ∧ t.flag .v = false ∧ t.flag .c = false ∧
        o.Written s t [.n, .z, .v, .c] 0) ∧
    (encode (tstForm o) = rmwBytes 0xD o ∧
      ∃ t, exec (tstForm o) s = .next t ∧ NZ8 t (o.value s) ∧ t.flag .v = false ∧ o.Probed s t [.n, .z, .v])

/-- DAA: each digit of A corrected by 6 or 0 from H, C and the two digits; C stays set; V undefined, H not affected
(40_8bit_accumulator_memory.md R153). That H corrects the low digit is the spec's resolution of a misprint (90_conflicts.md C2, log
entry 19). -/
def Obligations.DaaEffect : Prop :=
  ∀ s : State,
    let lsn := s.a.toNat % 16
    let msn := s.a.toNat / 16
    let low := if s.flag .h = true ∨ 9 < lsn then 6 else 0
    let high := if s.flag .c = true ∨ 9 < msn ∨ (8 < msn ∧ 9 < lsn) then 6 else 0
    encode .daa = [0x19] ∧
    ∃ t, exec .daa s = .next t ∧
      t.a.toNat = (s.a.toNat + 16 * high + low) % 256 ∧ NZ8 t t.a ∧
      (t.flag .c = true ↔ 255 < s.a.toNat + 16 * high + low ∨ s.flag .c = true) ∧
      Keeps s t [.a] [.n, .z, .v, .c] ∧ KeepsMemory s t ∧ Makes s t []

/-- MUL: the unsigned product of A and B in D, Z of the product, C its bit 7 (40_8bit_accumulator_memory.md R169). -/
def Obligations.MulEffect : Prop :=
  ∀ s : State,
    encode .mul = [0x3D] ∧
    ∃ t, exec .mul s = .next t ∧
      t.a.toNat * 256 + t.b.toNat = s.a.toNat * s.b.toNat ∧
      t.flag .z = decide (s.a.toNat * s.b.toNat = 0) ∧
      t.flag .c = decide (128 ≤ s.a.toNat * s.b.toNat % 256) ∧
      Keeps s t [.a, .b] [.z, .c] ∧ KeepsMemory s t ∧ Makes s t []

/-- EXG and TFR of registers of one width: both values read first; CC changed only if it is written; a write of S arms NMI
(40_8bit_accumulator_memory.md R159, R190). That PC as a source or a partner gives the address of the next instruction is the
spec's inference (10_state.md R26, 91_not_in_source.md N31, log entry 18). -/
def Obligations.ExgAndTfrEffect : Prop :=
  ∀ (r1 r2 : XReg) (s : State), r1.is8 = r2.is8 →
    let regs : XReg → List Reg
      | .d => [.a, .b]
      | .x => [.x]
      | .y => [.y]
      | .u => [.u]
      | .s => [.s]
      | .pc => [.pc]
      | .a => [.a]
      | .b => [.b]
      | .dp => [.dp]
      | .cc => []
    (encode (.exg r1 r2) = [0x1E, registersByte r1 r2] ∧
      ∃ t, exec (.exg r1 r2) s = .next t ∧ t.xreg r1 = s.xreg r2 ∧ t.xreg r2 = s.xreg r1 ∧
        KeepsRegs s t (regs r1 ++ regs r2) ∧ (r1 ≠ .cc → r2 ≠ .cc → KeepsFlags s t []) ∧
        KeepsControl s t (r1 == .s || r2 == .s) ∧ KeepsPlatform s t ∧ KeepsMemory s t ∧ Makes s t []) ∧
    (encode (.tfr r1 r2) = [0x1F, registersByte r1 r2] ∧
      ∃ t, exec (.tfr r1 r2) s = .next t ∧ t.xreg r2 = s.xreg r1 ∧
        KeepsRegs s t (regs r2) ∧ (r2 ≠ .cc → KeepsFlags s t []) ∧
        KeepsControl s t (r2 == .s) ∧ KeepsPlatform s t ∧ KeepsMemory s t ∧ Makes s t [])

/-! ## 16-bit instructions -/

/-- ADDD and SUBD: the sum and the difference of D modulo 65536, with N, Z, V, C; H not affected
(41_16bit_accumulator_memory.md R201, R206). -/
def Obligations.AdddAndSubdEffect : Prop :=
  ∀ (o : Src16) (s : State),
    let d := word s.a s.b
    let m := s.operand16 o
    (encode (adddForm o) = wideBytes ([], 0xC3) o ∧
      ∃ t, exec (adddForm o) s = .next t ∧
        (word t.a t.b).toNat = (d.toNat + m.toNat) % 65536 ∧ NZ16 t (word t.a t.b) ∧
        t.flag .v = decide (d.toInt + m.toInt < -32768 ∨ 32767 < d.toInt + m.toInt) ∧
        t.flag .c = decide (65535 < d.toNat + m.toNat) ∧
        Keeps (s.after16 o) t [.a, .b] [.n, .z, .v, .c] ∧ KeepsMemory s t ∧ Makes (s.after16 o) t []) ∧
    (encode (subdForm o) = wideBytes ([], 0x83) o ∧
      ∃ t, exec (subdForm o) s = .next t ∧
        ((word t.a t.b).toNat : Int) = (d.toNat - m.toNat : Int) % 65536 ∧ NZ16 t (word t.a t.b) ∧
        t.flag .v = decide (d.toInt - m.toInt < -32768 ∨ 32767 < d.toInt - m.toInt) ∧
        t.flag .c = decide (d.toNat < m.toNat) ∧
        Keeps (s.after16 o) t [.a, .b] [.n, .z, .v, .c] ∧ KeepsMemory s t ∧ Makes (s.after16 o) t [])

/-- CMPD, CMPX, CMPY, CMPU, CMPS: the flags of the 16-bit difference, no register written; afterwards C tells the unsigned
order, Z equality, N ⊕ V the signed order (41_16bit_accumulator_memory.md R202, 42_index_stack_pointer.md R221 to R224). That
the register is read after the addressing mode's step is the spec's derivation (30_encoding.md R110, 42_index_stack_pointer.md
R220, R242). -/
def Obligations.Compare16Effect : Prop :=
  ∀ (r : Reg16) (o : Src16) (s : State),
    let a := (s.after16 o).reg16 r
    let m := s.operand16 o
    encode (cmp16Form r o) = wideBytes (cmp16Opcode r) o ∧
    ∃ t, exec (cmp16Form r o) s = .next t ∧
      NZ16 t (a - m) ∧ t.flag .v = decide (a.toInt - m.toInt < -32768 ∨ 32767 < a.toInt - m.toInt) ∧
      t.flag .c = decide (a.toNat < m.toNat) ∧ t.flag .z = decide (a = m) ∧
      (t.flag .n ^^ t.flag .v) = decide (a.toInt < m.toInt) ∧
      Keeps (s.after16 o) t [] [.n, .z, .v, .c] ∧ KeepsMemory s t ∧ Makes (s.after16 o) t []

/-- LDD, LDX, LDY, LDU, LDS: the operand word in the register, N and Z of it, V cleared; LDS arms NMI
(41_16bit_accumulator_memory.md R203, 42_index_stack_pointer.md R225 to R228). That the word loaded wins over the addressing mode's
step of the same register is the spec's derivation (30_encoding.md R110, 42_index_stack_pointer.md R220, R242). -/
def Obligations.Load16Effect : Prop :=
  ∀ (r : Reg16) (o : Src16) (s : State),
    encode (ld16Form r o) = wideBytes (ld16Opcode r) o ∧
    ∃ t, exec (ld16Form r o) s = .next t ∧
      t.reg16 r = s.operand16 o ∧ NZ16 t (s.operand16 o) ∧ t.flag .v = false ∧
      KeepsRegs (s.after16 o) t r.regs ∧ KeepsFlags (s.after16 o) t [.n, .z, .v] ∧
      KeepsControl (s.after16 o) t r.arms ∧ KeepsPlatform s t ∧ KeepsMemory s t ∧ Makes (s.after16 o) t []

/-- STD, STX, STY, STU, STS: the register, read after the addressing mode's step, at the effective address with its high
byte first; N and Z of it, V cleared (41_16bit_accumulator_memory.md R205, 42_index_stack_pointer.md R237 to R240, 30_encoding.md
R110). That the high byte is written first is the spec's own decision D10 (20_memory.md R63). -/
def Obligations.Store16Effect : Prop :=
  ∀ (r : Reg16) (o : Mem) (s : State),
    let v := (s.afterEA o).reg16 r
    encode (st16Form r o) = wideMemBytes (st16Opcode r) o ∧
    ∃ t, exec (st16Form r o) s = .next t ∧
      NZ16 t v ∧ t.flag .v = false ∧
      Keeps (s.afterEA o) t [] [.n, .z, .v] ∧ Stores (s.afterEA o) t (s.ea o) (wordBytes v) ∧
      Makes (s.afterEA o) t [⟨.store, s.ea o + 1, loByte v, false⟩, ⟨.store, s.ea o, hiByte v, true⟩]

/-- LEAX, LEAY, LEAS, LEAU: the effective address in the register, after the addressing mode's step; Z by LEAX and LEAY only
(42_index_stack_pointer.md R229 to R232). That LEAS arms NMI is the spec's own decision D8 (60_exceptions.md R338, log entry
16). -/
def Obligations.LeaEffect : Prop :=
  ∀ (r : Ptr) (ix : Idx) (s : State),
    let ea := s.ea (.idx ix)
    let mid := s.afterEA (.idx ix)
    encode (leaForm r ix) = (match r with | .x => 0x30 | .y => 0x31 | .s => 0x32 | .u => 0x33) :: encodeIdx ix ∧
    ∃ t, exec (leaForm r ix) s = .next t ∧ t.ptr r = ea ∧ KeepsRegs mid t [ptrReg r] ∧
      (r = .x ∨ r = .y → t.flag .z = decide (ea = 0) ∧ KeepsFlags mid t [.z]) ∧
      (r = .s ∨ r = .u → KeepsFlags mid t []) ∧
      KeepsControl mid t (r == .s) ∧ KeepsPlatform mid t ∧ KeepsMemory s t ∧ Makes mid t []

/-- SEX and ABX: B sign-extended to D with N and Z of D; B added unsigned to X with no flag (41_16bit_accumulator_memory.md
R204, 42_index_stack_pointer.md R241). That SEX does not affect V is the spec's resolution of a conflict of its sources
(90_conflicts.md C4, log entry 19). -/
def Obligations.SexAndAbxEffect : Prop :=
  ∀ s : State,
    (encode .sex = [0x1D] ∧
      ∃ t, exec .sex s = .next t ∧ t.b = s.b ∧ (word t.a t.b).toInt = s.b.toInt ∧
        t.flag .n = decide (s.b.toInt < 0) ∧ t.flag .z = decide (s.b = 0) ∧
        Keeps s t [.a] [.n, .z] ∧ KeepsMemory s t ∧ Makes s t []) ∧
    (encode .abx = [0x3A] ∧
      ∃ t, exec .abx s = .next t ∧ t.x.toNat = (s.x.toNat + s.b.toNat) % 65536 ∧
        Keeps s t [.x] [] ∧ KeepsMemory s t ∧ Makes s t [])

/-! ## Stack instructions -/

/-- PSHS and PSHU: the selected registers below the old pointer, CC at the lowest address and PC at the highest, each word
high byte first, stored from the highest address down; only the pointer changes (42_index_stack_pointer.md R233, R234,
20_memory.md R65, R66). That the PC pushed is the address of the next instruction is derived (10_state.md R26,
91_not_in_source.md N31, log entry 18). -/
def Obligations.PushEffect : Prop :=
  ∀ (k : Stack) (l : RegList) (s : State),
    let i : Instr := match k with | .s => .pshs l | .u => .pshu l
    encode i = [match k with | .s => 0x34 | .u => 0x36, registerListByte l] ∧
    decodeRegisterList (registerListByte l) = l ∧
    ∃ t, exec i s = .next t ∧ t.top k = s.top k - BitVec.ofNat 16 (listSize l) ∧
      Stores s t (t.top k) (s.pushedBytes k l) ∧ Makes s t (accesses .push (t.top k) (s.pushedBytes k l)) ∧
      Keeps s t [k.reg] []

/-- PULS and PULU: each selected register from the bytes at the pointer up, read in that order, CC first and PC last, the pointer
moved past them; memory and every other register unchanged (42_index_stack_pointer.md R235, R236, 20_memory.md R65, R66). That a
pull of S arms NMI is the spec's own decision D8 (60_exceptions.md R338, log entry 16). -/
def Obligations.PullEffect : Prop :=
  ∀ (k : Stack) (l : RegList) (s : State),
    let i : Instr := match k with | .s => .puls l | .u => .pulu l
    encode i = [match k with | .s => 0x35 | .u => 0x37, registerListByte l] ∧
    ∃ t bs, exec i s = .next t ∧ bs.length = listSize l ∧ Reads s (s.top k) bs ∧
      Makes s t (accesses .pull (s.top k) bs).reverse ∧
      t.cc = (if l.cc then pulled bs 0 else s.cc) ∧
      t.a = (if l.a then pulled bs (offA l) else s.a) ∧
      t.b = (if l.b then pulled bs (offB l) else s.b) ∧
      t.dp = (if l.dp then pulled bs (offDp l) else s.dp) ∧
      t.x = (if l.x then pulledWord bs (offX l) else s.x) ∧
      t.y = (if l.y then pulledWord bs (offY l) else s.y) ∧
      t.other k = (if l.other then pulledWord bs (offOther l) else s.other k) ∧
      t.pc = (if l.pc then pulledWord bs (offPc l) else s.pc) ∧
      t.top k = s.top k + BitVec.ofNat 16 (listSize l) ∧
      KeepsControl s t (l.other && k == .u) ∧ KeepsPlatform s t ∧ KeepsMemory s t

/-! ## Branches, jumps and subroutines -/

/-- The sixteen conditions, short and long: a taken branch adds the signed offset to the address of the next instruction, an
untaken one goes on there; each odd condition is the complement of the even one before it; no flag, register or byte of
memory changes (43_branches.md R295). That BGT branches if Z is clear and N equals V is the spec's resolution of a misprint
(90_conflicts.md C1, log entry 19). -/
def Obligations.BranchEffect : Prop :=
  ∀ (k : Cond) (o : Byte) (w : Word) (s : State),
    (encode (shortBranch o k) = [0x20 + k.number, o] ∧
      ∃ t, exec (shortBranch o k) s = .next t ∧
        (k.Taken s → (t.pc.toNat : Int) = (s.pc.toNat + o.toInt) % 65536) ∧ (¬k.Taken s → t.pc = s.pc) ∧
        Keeps s t [.pc] [] ∧ KeepsMemory s t ∧ Makes s t []) ∧
    (encode (longBranch w k) =
        (if k = .always then [0x16] else [0x10, 0x20 + k.number]) ++ [hiByte w, loByte w] ∧
      ∃ t, exec (longBranch w k) s = .next t ∧
        (k.Taken s → (t.pc.toNat : Int) = (s.pc.toNat + w.toInt) % 65536) ∧ (¬k.Taken s → t.pc = s.pc) ∧
        Keeps s t [.pc] [] ∧ KeepsMemory s t ∧ Makes s t []) ∧
    (∀ q : Cond, k.number.toNat % 2 = 0 → q.number = k.number + 1 → (q.Taken s ↔ ¬k.Taken s))

/-- BSR and LBSR: the address of the next instruction on the S stack, high byte at the lower address, then the branch
(43_branches.md R275, R292). -/
def Obligations.BranchToSubroutineEffect : Prop :=
  ∀ (o : Byte) (w : Word) (s : State),
    (encode (.bsr o) = [0x8D, o] ∧
      ∃ t, exec (.bsr o) s = .next t ∧ (t.pc.toNat : Int) = (s.pc.toNat + o.toInt) % 65536 ∧ t.sp = s.sp - 2 ∧
        Stores s t (s.sp - 2) (wordBytes s.pc) ∧ Makes s t (accesses .push (s.sp - 2) (wordBytes s.pc)) ∧
        Keeps s t [.pc, .s] []) ∧
    (encode (.lbsr w) = [0x17, hiByte w, loByte w] ∧
      ∃ t, exec (.lbsr w) s = .next t ∧ (t.pc.toNat : Int) = (s.pc.toNat + w.toInt) % 65536 ∧ t.sp = s.sp - 2 ∧
        Stores s t (s.sp - 2) (wordBytes s.pc) ∧ Makes s t (accesses .push (s.sp - 2) (wordBytes s.pc)) ∧
        Keeps s t [.pc, .s] [])

/-- JMP and JSR go to the effective address, JSR after stacking the address of the next instruction; RTS pulls the pc
(44_miscellaneous.md R303, R304, R313). That JSR computes the address first and stacks at the stepped S is the spec's
derivation (30_encoding.md R110). -/
def Obligations.JumpEffect : Prop :=
  ∀ (o : Mem) (s : State),
    let mid := s.afterEA o
    (encode (jmpForm o) = (match o with | .dir _ => 0x0E | .idx _ => 0x6E | .ext _ => 0x7E) :: o.bytes ∧
      ∃ t, exec (jmpForm o) s = .next t ∧ t.pc = s.ea o ∧ Keeps mid t [.pc] [] ∧ KeepsMemory s t ∧ Makes mid t []) ∧
    (encode (jsrForm o) = (0x8D + o.column) :: o.bytes ∧
      ∃ t, exec (jsrForm o) s = .next t ∧ t.pc = s.ea o ∧ t.sp = mid.sp - 2 ∧
        Stores mid t (mid.sp - 2) (wordBytes s.pc) ∧ Makes mid t (accesses .push (mid.sp - 2) (wordBytes s.pc)) ∧
        Keeps mid t [.pc, .s] []) ∧
    (encode .rts = [0x39] ∧
      ∃ t h l, exec .rts s = .next t ∧ t.pc = word h l ∧ Reads s s.sp [h, l] ∧
        Makes s t (accesses .pull s.sp [h, l]).reverse ∧ t.sp = s.sp + 2 ∧ Keeps s t [.pc, .s] [] ∧ KeepsMemory s t)

/-! ## Interrupt instructions -/

/-- RTI: CC first; if the E just pulled is set, A, B, DP, X, Y, U next; then the pc (44_miscellaneous.md R312). The order of the
registers between CC and the pc is the spec's derivation, the reverse of the push order (20_memory.md R66, 91_not_in_source.md
N41, log entry 28). -/
def Obligations.RtiEffect : Prop :=
  ∀ s : State,
    encode .rti = [0x3B] ∧
    ∃ t bs, exec .rti s = .next t ∧ Reads s s.sp bs ∧ Makes s t (accesses .pull s.sp bs).reverse ∧ t.cc = pulled bs 0 ∧
      (t.flag .e = true →
        bs.length = 12 ∧ t.a = pulled bs 1 ∧ t.b = pulled bs 2 ∧ t.dp = pulled bs 3 ∧ t.x = pulledWord bs 4 ∧
        t.y = pulledWord bs 6 ∧ t.u = pulledWord bs 8 ∧ t.pc = pulledWord bs 10 ∧ t.sp = s.sp + 12) ∧
      (t.flag .e = false →
        bs.length = 3 ∧ t.pc = pulledWord bs 1 ∧ t.sp = s.sp + 3 ∧ KeepsRegs s t [.pc, .s]) ∧
      KeepsControl s t false ∧ KeepsPlatform s t ∧ KeepsMemory s t

/-- SWI, SWI2, SWI3: the entire state stacked with E set, SWI alone masking I and F afterwards, pc from the instruction's
own vector (44_miscellaneous.md R314 to R316). That the vector's high byte is read first is the spec's own decision D10
(20_memory.md R58, R63), and that BUSY is high during it alone is read from R64 (log entry 13). -/
def Obligations.SoftwareInterruptEffect : Prop :=
  ∀ s : State,
    let entry (i : Instr) (vector : Word) (set : List Flag) : Prop :=
      ∃ t, exec i s = .next t ∧ t.sp = s.sp - 12 ∧
        LoadsVector s t vector (accesses .push (s.sp - 12) (s.entireFrame (s.cc ||| 0x80))) ∧
        Stores s t (s.sp - 12) (s.entireFrame (s.cc ||| 0x80)) ∧
        (∀ k, k ∈ set → t.flag k = true) ∧ KeepsFlags s t set ∧ KeepsRegs s t [.s, .pc] ∧
        t.nmiArmed = s.nmiArmed ∧ t.nmiPending = s.nmiPending ∧ t.runState = .running ∧ KeepsPlatform s t
    (encode .swi = [0x3F] ∧ entry .swi 0xFFFA [.e, .i, .f]) ∧
    (encode .swi2 = [0x10, 0x3F] ∧ entry .swi2 0xFFF4 [.e]) ∧
    (encode .swi3 = [0x11, 0x3F] ∧ entry .swi3 0xFFF2 [.e])

/-- CWAI: CC ANDed with the byte, E set, the entire state stacked, then the wait (44_miscellaneous.md R302). -/
def Obligations.CwaiEffect : Prop :=
  ∀ (m : Byte) (s : State),
    encode (.cwai m) = [0x3C, m] ∧
    ∃ t, exec (.cwai m) s = .next t ∧ t.cc = (s.cc &&& m) ||| 0x80 ∧ t.runState = .cwaiWaiting ∧ t.sp = s.sp - 12 ∧
      Stores s t (s.sp - 12) (s.entireFrame ((s.cc &&& m) ||| 0x80)) ∧
      Makes s t (accesses .push (s.sp - 12) (s.entireFrame ((s.cc &&& m) ||| 0x80))) ∧ KeepsRegs s t [.s] ∧
      t.nmiArmed = s.nmiArmed ∧ t.nmiPending = s.nmiPending ∧ KeepsPlatform s t

/-- SYNC stops the MPU and NOP does nothing; neither changes a register, a flag or a byte of memory (44_miscellaneous.md
R305, R320). -/
def Obligations.SyncAndNopEffect : Prop :=
  ∀ s : State,
    (encode .sync = [0x13] ∧
      ∃ t, exec .sync s = .next t ∧ t.runState = .syncing ∧ KeepsRegs s t [] ∧ KeepsFlags s t [] ∧
        t.nmiArmed = s.nmiArmed ∧ t.nmiPending = s.nmiPending ∧ KeepsPlatform s t ∧ KeepsMemory s t ∧ Makes s t []) ∧
    (encode .nop = [0x12] ∧ exec .nop s = .next s)

/-- ANDCC and ORCC act on all eight bits of CC and on nothing else (44_miscellaneous.md R301, R306). -/
def Obligations.AndccAndOrccEffect : Prop :=
  ∀ (m : Byte) (s : State),
    (encode (.andcc m) = [0x1C, m] ∧
      ∃ t, exec (.andcc m) s = .next t ∧ (∀ k, t.flag k = (s.flag k && getFlag m k)) ∧
        KeepsRegs s t [] ∧ KeepsControl s t false ∧ KeepsPlatform s t ∧ KeepsMemory s t ∧ Makes s t []) ∧
    (encode (.orcc m) = [0x1A, m] ∧
      ∃ t, exec (.orcc m) s = .next t ∧ (∀ k, t.flag k = (s.flag k || getFlag m k)) ∧
        KeepsRegs s t [] ∧ KeepsControl s t false ∧ KeepsPlatform s t ∧ KeepsMemory s t ∧ Makes s t [])
end

