-- ==== Sys2Proof/Laws/State.lean ====
section
/-! SUPPORT. One lemma for each field and each update: what a named operation leaves of a field it does not write, and what
it writes. Later proofs rewrite with these and unfold no update. -/

namespace Sys2Proof.Machine

/-! ### The bus: its platform and its record of accesses -/

@[simp] theorem Bus.store_platform (b : Bus) (a : Word) (v : Byte) : (b.store a v).platform = b.platform := by
  unfold Bus.store; split <;> rfl
@[simp] theorem Bus.store_trace (b : Bus) (a : Word) (v : Byte) : (b.store a v).trace = b.trace := by
  unfold Bus.store; split <;> rfl
@[simp] theorem Bus.store_cycles (b : Bus) (a : Word) (v : Byte) : (b.store a v).cycles = b.cycles := by
  unfold Bus.store; split <;> rfl
@[simp] theorem Bus.store_held (b : Bus) (a : Word) (v : Byte) : (b.store a v).held = b.held := by
  unfold Bus.store; split <;> rfl
@[simp] theorem Bus.otherWrite_platform (b : Bus) (a : Word) (v : Byte) : (b.otherWrite a v).platform = b.platform :=
  b.store_platform a v
@[simp] theorem Bus.otherWrite_trace (b : Bus) (a : Word) (v : Byte) : (b.otherWrite a v).trace = b.trace := b.store_trace a v
@[simp] theorem Bus.otherWrite_cycles (b : Bus) (a : Word) (v : Byte) : (b.otherWrite a v).cycles = b.cycles :=
  b.store_cycles a v
@[simp] theorem Bus.otherWrite_mem (b : Bus) (a : Word) (v : Byte) : (b.otherWrite a v).mem = (b.store a v).mem := rfl
@[simp] theorem Bus.otherWrite_held (b : Bus) (a : Word) (v : Byte) :
    (b.otherWrite a v).held = b.platform.heldAfter b.held ⟨.store, a, v, false⟩ := rfl
@[simp] theorem Bus.othersWrite_platform (b : Bus) (l : List (Word × Byte)) : (b.othersWrite l).platform = b.platform := by
  induction l generalizing b with
  | nil => rfl
  | cons p l ih => exact (ih _).trans (b.store_platform p.1 p.2)
@[simp] theorem Bus.othersWrite_trace (b : Bus) (l : List (Word × Byte)) : (b.othersWrite l).trace = b.trace := by
  induction l generalizing b with
  | nil => rfl
  | cons p l ih => exact (ih _).trans (b.store_trace p.1 p.2)
@[simp] theorem Bus.othersWrite_cycles (b : Bus) (l : List (Word × Byte)) : (b.othersWrite l).cycles = b.cycles := by
  induction l generalizing b with
  | nil => rfl
  | cons p l ih => exact (ih _).trans (b.store_cycles p.1 p.2)
@[simp] theorem Bus.shared_platform (b : Bus) : b.shared.platform = b.platform := by unfold Bus.shared; split <;> simp
@[simp] theorem Bus.shared_trace (b : Bus) : b.shared.trace = b.trace := by unfold Bus.shared; split <;> simp
@[simp] theorem Bus.shared_cycles (b : Bus) : b.shared.cycles = b.cycles := by unfold Bus.shared; split <;> simp
@[simp] theorem Bus.record_platform (b : Bus) (x : Access) : (b.record x).platform = b.platform := rfl
@[simp] theorem Bus.record_mem (b : Bus) (x : Access) : (b.record x).mem = b.mem := rfl
@[simp] theorem Bus.record_trace (b : Bus) (x : Access) : (b.record x).trace = x :: b.trace := rfl
@[simp] theorem Bus.record_cycles (b : Bus) (x : Access) : (b.record x).cycles = b.cycles.tail := rfl
@[simp] theorem Bus.record_held (b : Bus) (x : Access) : (b.record x).held = b.platform.heldAfter b.held x := rfl
@[simp] theorem Bus.record_busy (b : Bus) (x : Access) : (b.record x).busy = x.busy := rfl
@[simp] theorem Bus.didRead_platform (b : Bus) (k : AccessKind) (busy : Bool) (a : Word) :
    (b.didRead k busy a).platform = b.platform := b.shared_platform
@[simp] theorem Bus.didRead_mem (b : Bus) (k : AccessKind) (busy : Bool) (a : Word) :
    (b.didRead k busy a).mem = b.shared.mem := rfl
@[simp] theorem Bus.didRead_trace (b : Bus) (k : AccessKind) (busy : Bool) (a : Word) :
    (b.didRead k busy a).trace = ⟨k, a, b.read a, busy⟩ :: b.trace := congrArg _ b.shared_trace
@[simp] theorem Bus.didRead_cycles (b : Bus) (k : AccessKind) (busy : Bool) (a : Word) :
    (b.didRead k busy a).cycles = b.cycles.tail := congrArg List.tail b.shared_cycles
@[simp] theorem Bus.didRead_held (b : Bus) (k : AccessKind) (busy : Bool) (a : Word) :
    (b.didRead k busy a).held = b.platform.heldAfter b.shared.held ⟨k, a, b.read a, busy⟩ := by simp [Bus.didRead]
@[simp] theorem Bus.didRead_busy (b : Bus) (k : AccessKind) (busy : Bool) (a : Word) :
    (b.didRead k busy a).busy = busy := rfl
@[simp] theorem Bus.write_platform (b : Bus) (k : AccessKind) (busy : Bool) (a : Word) (v : Byte) :
    (b.write k busy a v).platform = b.platform := (b.shared.store_platform a v).trans b.shared_platform
@[simp] theorem Bus.write_mem (b : Bus) (k : AccessKind) (busy : Bool) (a : Word) (v : Byte) :
    (b.write k busy a v).mem = (b.shared.store a v).mem := rfl
@[simp] theorem Bus.write_trace (b : Bus) (k : AccessKind) (busy : Bool) (a : Word) (v : Byte) :
    (b.write k busy a v).trace = ⟨k, a, v, busy⟩ :: b.trace :=
  congrArg _ ((b.shared.store_trace a v).trans b.shared_trace)
@[simp] theorem Bus.write_cycles (b : Bus) (k : AccessKind) (busy : Bool) (a : Word) (v : Byte) :
    (b.write k busy a v).cycles = b.cycles.tail := congrArg List.tail ((b.shared.store_cycles a v).trans b.shared_cycles)
@[simp] theorem Bus.write_held (b : Bus) (k : AccessKind) (busy : Bool) (a : Word) (v : Byte) :
    (b.write k busy a v).held = b.platform.heldAfter b.shared.held ⟨k, a, v, busy⟩ := by simp [Bus.write]
@[simp] theorem Bus.write_busy (b : Bus) (k : AccessKind) (busy : Bool) (a : Word) (v : Byte) :
    (b.write k busy a v).busy = busy := rfl

/-! ### setD -/

@[simp] theorem State.setD_a (s : State) (v : Word) : (s.setD v).a = hiByte v := rfl
@[simp] theorem State.setD_b (s : State) (v : Word) : (s.setD v).b = loByte v := rfl
@[simp] theorem State.setD_dp (s : State) (v : Word) : (s.setD v).dp = s.dp := rfl
@[simp] theorem State.setD_cc (s : State) (v : Word) : (s.setD v).cc = s.cc := rfl
@[simp] theorem State.setD_x (s : State) (v : Word) : (s.setD v).x = s.x := rfl
@[simp] theorem State.setD_y (s : State) (v : Word) : (s.setD v).y = s.y := rfl
@[simp] theorem State.setD_u (s : State) (v : Word) : (s.setD v).u = s.u := rfl
@[simp] theorem State.setD_sp (s : State) (v : Word) : (s.setD v).sp = s.sp := rfl
@[simp] theorem State.setD_pc (s : State) (v : Word) : (s.setD v).pc = s.pc := rfl
@[simp] theorem State.setD_nmiArmed (s : State) (v : Word) : (s.setD v).nmiArmed = s.nmiArmed := rfl
@[simp] theorem State.setD_nmiPending (s : State) (v : Word) : (s.setD v).nmiPending = s.nmiPending := rfl
@[simp] theorem State.setD_runState (s : State) (v : Word) : (s.setD v).runState = s.runState := rfl
@[simp] theorem State.setD_bus (s : State) (v : Word) : (s.setD v).bus = s.bus := rfl
@[simp] theorem State.setD_inputs (s : State) (v : Word) : (s.setD v).inputs = s.inputs := rfl
@[simp] theorem State.setD_tick (s : State) (v : Word) : (s.setD v).tick = s.tick := rfl

/-! ### setAcc -/

@[simp] theorem State.setAcc_dp (s : State) (r : Acc) (v : Byte) : (s.setAcc r v).dp = s.dp := by cases r <;> rfl
@[simp] theorem State.setAcc_cc (s : State) (r : Acc) (v : Byte) : (s.setAcc r v).cc = s.cc := by cases r <;> rfl
@[simp] theorem State.setAcc_x (s : State) (r : Acc) (v : Byte) : (s.setAcc r v).x = s.x := by cases r <;> rfl
@[simp] theorem State.setAcc_y (s : State) (r : Acc) (v : Byte) : (s.setAcc r v).y = s.y := by cases r <;> rfl
@[simp] theorem State.setAcc_u (s : State) (r : Acc) (v : Byte) : (s.setAcc r v).u = s.u := by cases r <;> rfl
@[simp] theorem State.setAcc_sp (s : State) (r : Acc) (v : Byte) : (s.setAcc r v).sp = s.sp := by cases r <;> rfl
@[simp] theorem State.setAcc_pc (s : State) (r : Acc) (v : Byte) : (s.setAcc r v).pc = s.pc := by cases r <;> rfl
@[simp] theorem State.setAcc_nmiArmed (s : State) (r : Acc) (v : Byte) : (s.setAcc r v).nmiArmed = s.nmiArmed := by cases r <;> rfl
@[simp] theorem State.setAcc_nmiPending (s : State) (r : Acc) (v : Byte) : (s.setAcc r v).nmiPending = s.nmiPending := by cases r <;> rfl
@[simp] theorem State.setAcc_runState (s : State) (r : Acc) (v : Byte) : (s.setAcc r v).runState = s.runState := by cases r <;> rfl
@[simp] theorem State.setAcc_bus (s : State) (r : Acc) (v : Byte) : (s.setAcc r v).bus = s.bus := by cases r <;> rfl
@[simp] theorem State.setAcc_inputs (s : State) (r : Acc) (v : Byte) : (s.setAcc r v).inputs = s.inputs := by cases r <;> rfl
@[simp] theorem State.setAcc_tick (s : State) (r : Acc) (v : Byte) : (s.setAcc r v).tick = s.tick := by cases r <;> rfl

/-! ### setPtr -/

@[simp] theorem State.setPtr_a (s : State) (r : Ptr) (v : Word) : (s.setPtr r v).a = s.a := by cases r <;> rfl
@[simp] theorem State.setPtr_b (s : State) (r : Ptr) (v : Word) : (s.setPtr r v).b = s.b := by cases r <;> rfl
@[simp] theorem State.setPtr_dp (s : State) (r : Ptr) (v : Word) : (s.setPtr r v).dp = s.dp := by cases r <;> rfl
@[simp] theorem State.setPtr_cc (s : State) (r : Ptr) (v : Word) : (s.setPtr r v).cc = s.cc := by cases r <;> rfl
@[simp] theorem State.setPtr_pc (s : State) (r : Ptr) (v : Word) : (s.setPtr r v).pc = s.pc := by cases r <;> rfl
@[simp] theorem State.setPtr_nmiArmed (s : State) (r : Ptr) (v : Word) : (s.setPtr r v).nmiArmed = s.nmiArmed := by cases r <;> rfl
@[simp] theorem State.setPtr_nmiPending (s : State) (r : Ptr) (v : Word) : (s.setPtr r v).nmiPending = s.nmiPending := by cases r <;> rfl
@[simp] theorem State.setPtr_runState (s : State) (r : Ptr) (v : Word) : (s.setPtr r v).runState = s.runState := by cases r <;> rfl
@[simp] theorem State.setPtr_bus (s : State) (r : Ptr) (v : Word) : (s.setPtr r v).bus = s.bus := by cases r <;> rfl
@[simp] theorem State.setPtr_inputs (s : State) (r : Ptr) (v : Word) : (s.setPtr r v).inputs = s.inputs := by cases r <;> rfl
@[simp] theorem State.setPtr_tick (s : State) (r : Ptr) (v : Word) : (s.setPtr r v).tick = s.tick := by cases r <;> rfl

/-! ### loadS -/

@[simp] theorem State.loadS_sp (s : State) (v : Word) : (s.loadS v).sp = v := rfl
@[simp] theorem State.loadS_nmiArmed (s : State) (v : Word) : (s.loadS v).nmiArmed = true := rfl
@[simp] theorem State.loadS_a (s : State) (v : Word) : (s.loadS v).a = s.a := rfl
@[simp] theorem State.loadS_b (s : State) (v : Word) : (s.loadS v).b = s.b := rfl
@[simp] theorem State.loadS_dp (s : State) (v : Word) : (s.loadS v).dp = s.dp := rfl
@[simp] theorem State.loadS_cc (s : State) (v : Word) : (s.loadS v).cc = s.cc := rfl
@[simp] theorem State.loadS_x (s : State) (v : Word) : (s.loadS v).x = s.x := rfl
@[simp] theorem State.loadS_y (s : State) (v : Word) : (s.loadS v).y = s.y := rfl
@[simp] theorem State.loadS_u (s : State) (v : Word) : (s.loadS v).u = s.u := rfl
@[simp] theorem State.loadS_pc (s : State) (v : Word) : (s.loadS v).pc = s.pc := rfl
@[simp] theorem State.loadS_nmiPending (s : State) (v : Word) : (s.loadS v).nmiPending = s.nmiPending := rfl
@[simp] theorem State.loadS_runState (s : State) (v : Word) : (s.loadS v).runState = s.runState := rfl
@[simp] theorem State.loadS_bus (s : State) (v : Word) : (s.loadS v).bus = s.bus := rfl
@[simp] theorem State.loadS_inputs (s : State) (v : Word) : (s.loadS v).inputs = s.inputs := rfl
@[simp] theorem State.loadS_tick (s : State) (v : Word) : (s.loadS v).tick = s.tick := rfl

/-! ### load16 -/

@[simp] theorem State.load16_dp (s : State) (r : Reg16) (v : Word) : (s.load16 r v).dp = s.dp := by cases r <;> rfl
@[simp] theorem State.load16_cc (s : State) (r : Reg16) (v : Word) : (s.load16 r v).cc = s.cc := by cases r <;> rfl
@[simp] theorem State.load16_pc (s : State) (r : Reg16) (v : Word) : (s.load16 r v).pc = s.pc := by cases r <;> rfl
@[simp] theorem State.load16_nmiPending (s : State) (r : Reg16) (v : Word) : (s.load16 r v).nmiPending = s.nmiPending := by cases r <;> rfl
@[simp] theorem State.load16_runState (s : State) (r : Reg16) (v : Word) : (s.load16 r v).runState = s.runState := by cases r <;> rfl
@[simp] theorem State.load16_bus (s : State) (r : Reg16) (v : Word) : (s.load16 r v).bus = s.bus := by cases r <;> rfl
@[simp] theorem State.load16_inputs (s : State) (r : Reg16) (v : Word) : (s.load16 r v).inputs = s.inputs := by cases r <;> rfl
@[simp] theorem State.load16_tick (s : State) (r : Reg16) (v : Word) : (s.load16 r v).tick = s.tick := by cases r <;> rfl

/-! ### setXreg -/

@[simp] theorem State.setXreg_nmiPending (s : State) (r : XReg) (v : Word) : (s.setXreg r v).nmiPending = s.nmiPending := by cases r <;> rfl
@[simp] theorem State.setXreg_runState (s : State) (r : XReg) (v : Word) : (s.setXreg r v).runState = s.runState := by cases r <;> rfl
@[simp] theorem State.setXreg_bus (s : State) (r : XReg) (v : Word) : (s.setXreg r v).bus = s.bus := by cases r <;> rfl
@[simp] theorem State.setXreg_inputs (s : State) (r : XReg) (v : Word) : (s.setXreg r v).inputs = s.inputs := by cases r <;> rfl
@[simp] theorem State.setXreg_tick (s : State) (r : XReg) (v : Word) : (s.setXreg r v).tick = s.tick := by cases r <;> rfl

/-! ### putFlag -/

@[simp] theorem State.putFlag_cc (s : State) (k : Flag) (v : Bool) : (s.putFlag k v).cc = setFlag k v s.cc := rfl
@[simp] theorem State.putFlag_a (s : State) (k : Flag) (v : Bool) : (s.putFlag k v).a = s.a := rfl
@[simp] theorem State.putFlag_b (s : State) (k : Flag) (v : Bool) : (s.putFlag k v).b = s.b := rfl
@[simp] theorem State.putFlag_dp (s : State) (k : Flag) (v : Bool) : (s.putFlag k v).dp = s.dp := rfl
@[simp] theorem State.putFlag_x (s : State) (k : Flag) (v : Bool) : (s.putFlag k v).x = s.x := rfl
@[simp] theorem State.putFlag_y (s : State) (k : Flag) (v : Bool) : (s.putFlag k v).y = s.y := rfl
@[simp] theorem State.putFlag_u (s : State) (k : Flag) (v : Bool) : (s.putFlag k v).u = s.u := rfl
@[simp] theorem State.putFlag_sp (s : State) (k : Flag) (v : Bool) : (s.putFlag k v).sp = s.sp := rfl
@[simp] theorem State.putFlag_pc (s : State) (k : Flag) (v : Bool) : (s.putFlag k v).pc = s.pc := rfl
@[simp] theorem State.putFlag_nmiArmed (s : State) (k : Flag) (v : Bool) : (s.putFlag k v).nmiArmed = s.nmiArmed := rfl
@[simp] theorem State.putFlag_nmiPending (s : State) (k : Flag) (v : Bool) : (s.putFlag k v).nmiPending = s.nmiPending := rfl
@[simp] theorem State.putFlag_runState (s : State) (k : Flag) (v : Bool) : (s.putFlag k v).runState = s.runState := rfl
@[simp] theorem State.putFlag_bus (s : State) (k : Flag) (v : Bool) : (s.putFlag k v).bus = s.bus := rfl
@[simp] theorem State.putFlag_inputs (s : State) (k : Flag) (v : Bool) : (s.putFlag k v).inputs = s.inputs := rfl
@[simp] theorem State.putFlag_tick (s : State) (k : Flag) (v : Bool) : (s.putFlag k v).tick = s.tick := rfl

/-! ### setTop -/

@[simp] theorem State.setTop_a (s : State) (k : Stack) (v : Word) : (s.setTop k v).a = s.a := by cases k <;> rfl
@[simp] theorem State.setTop_b (s : State) (k : Stack) (v : Word) : (s.setTop k v).b = s.b := by cases k <;> rfl
@[simp] theorem State.setTop_dp (s : State) (k : Stack) (v : Word) : (s.setTop k v).dp = s.dp := by cases k <;> rfl
@[simp] theorem State.setTop_cc (s : State) (k : Stack) (v : Word) : (s.setTop k v).cc = s.cc := by cases k <;> rfl
@[simp] theorem State.setTop_x (s : State) (k : Stack) (v : Word) : (s.setTop k v).x = s.x := by cases k <;> rfl
@[simp] theorem State.setTop_y (s : State) (k : Stack) (v : Word) : (s.setTop k v).y = s.y := by cases k <;> rfl
@[simp] theorem State.setTop_pc (s : State) (k : Stack) (v : Word) : (s.setTop k v).pc = s.pc := by cases k <;> rfl
@[simp] theorem State.setTop_nmiArmed (s : State) (k : Stack) (v : Word) : (s.setTop k v).nmiArmed = s.nmiArmed := by cases k <;> rfl
@[simp] theorem State.setTop_nmiPending (s : State) (k : Stack) (v : Word) : (s.setTop k v).nmiPending = s.nmiPending := by cases k <;> rfl
@[simp] theorem State.setTop_runState (s : State) (k : Stack) (v : Word) : (s.setTop k v).runState = s.runState := by cases k <;> rfl
@[simp] theorem State.setTop_bus (s : State) (k : Stack) (v : Word) : (s.setTop k v).bus = s.bus := by cases k <;> rfl
@[simp] theorem State.setTop_inputs (s : State) (k : Stack) (v : Word) : (s.setTop k v).inputs = s.inputs := by cases k <;> rfl
@[simp] theorem State.setTop_tick (s : State) (k : Stack) (v : Word) : (s.setTop k v).tick = s.tick := by cases k <;> rfl

/-! ### setOther -/

@[simp] theorem State.setOther_a (s : State) (k : Stack) (v : Word) : (s.setOther k v).a = s.a := by cases k <;> rfl
@[simp] theorem State.setOther_b (s : State) (k : Stack) (v : Word) : (s.setOther k v).b = s.b := by cases k <;> rfl
@[simp] theorem State.setOther_dp (s : State) (k : Stack) (v : Word) : (s.setOther k v).dp = s.dp := by cases k <;> rfl
@[simp] theorem State.setOther_cc (s : State) (k : Stack) (v : Word) : (s.setOther k v).cc = s.cc := by cases k <;> rfl
@[simp] theorem State.setOther_x (s : State) (k : Stack) (v : Word) : (s.setOther k v).x = s.x := by cases k <;> rfl
@[simp] theorem State.setOther_y (s : State) (k : Stack) (v : Word) : (s.setOther k v).y = s.y := by cases k <;> rfl
@[simp] theorem State.setOther_pc (s : State) (k : Stack) (v : Word) : (s.setOther k v).pc = s.pc := by cases k <;> rfl
@[simp] theorem State.setOther_nmiPending (s : State) (k : Stack) (v : Word) : (s.setOther k v).nmiPending = s.nmiPending := by
  cases k <;> rfl
@[simp] theorem State.setOther_runState (s : State) (k : Stack) (v : Word) : (s.setOther k v).runState = s.runState := by cases k <;> rfl
@[simp] theorem State.setOther_bus (s : State) (k : Stack) (v : Word) : (s.setOther k v).bus = s.bus := by cases k <;> rfl
@[simp] theorem State.setOther_inputs (s : State) (k : Stack) (v : Word) : (s.setOther k v).inputs = s.inputs := by cases k <;> rfl
@[simp] theorem State.setOther_tick (s : State) (k : Stack) (v : Word) : (s.setOther k v).tick = s.tick := by cases k <;> rfl

/-! ### didRead -/

@[simp] theorem State.didRead_a (s : State) (k : AccessKind) (busy : Bool) (w : Word) : (s.didRead k busy w).a = s.a := rfl
@[simp] theorem State.didRead_b (s : State) (k : AccessKind) (busy : Bool) (w : Word) : (s.didRead k busy w).b = s.b := rfl
@[simp] theorem State.didRead_dp (s : State) (k : AccessKind) (busy : Bool) (w : Word) : (s.didRead k busy w).dp = s.dp := rfl
@[simp] theorem State.didRead_cc (s : State) (k : AccessKind) (busy : Bool) (w : Word) : (s.didRead k busy w).cc = s.cc := rfl
@[simp] theorem State.didRead_x (s : State) (k : AccessKind) (busy : Bool) (w : Word) : (s.didRead k busy w).x = s.x := rfl
@[simp] theorem State.didRead_y (s : State) (k : AccessKind) (busy : Bool) (w : Word) : (s.didRead k busy w).y = s.y := rfl
@[simp] theorem State.didRead_u (s : State) (k : AccessKind) (busy : Bool) (w : Word) : (s.didRead k busy w).u = s.u := rfl
@[simp] theorem State.didRead_sp (s : State) (k : AccessKind) (busy : Bool) (w : Word) : (s.didRead k busy w).sp = s.sp := rfl
@[simp] theorem State.didRead_pc (s : State) (k : AccessKind) (busy : Bool) (w : Word) : (s.didRead k busy w).pc = s.pc := rfl
@[simp] theorem State.didRead_nmiArmed (s : State) (k : AccessKind) (busy : Bool) (w : Word) : (s.didRead k busy w).nmiArmed
    = s.nmiArmed := rfl
@[simp] theorem State.didRead_nmiPending (s : State) (k : AccessKind) (busy : Bool) (w : Word) : (s.didRead k busy
    w).nmiPending = s.nmiPending := rfl
@[simp] theorem State.didRead_runState (s : State) (k : AccessKind) (busy : Bool) (w : Word) : (s.didRead k busy w).runState
    = s.runState := rfl
@[simp] theorem State.didRead_inputs (s : State) (k : AccessKind) (busy : Bool) (w : Word) : (s.didRead k busy w).inputs = s.inputs := rfl
@[simp] theorem State.didRead_tick (s : State) (k : AccessKind) (busy : Bool) (w : Word) : (s.didRead k busy w).tick = s.tick := rfl
@[simp] theorem State.didRead_platform (s : State) (k : AccessKind) (busy : Bool) (w : Word) : (s.didRead k busy
    w).bus.platform = s.bus.platform := s.bus.didRead_platform k busy w

/-! ### write -/

@[simp] theorem State.write_a (s : State) (k : AccessKind) (busy : Bool) (w : Word) (v : Byte) : (s.write k busy w v).a = s.a := rfl
@[simp] theorem State.write_b (s : State) (k : AccessKind) (busy : Bool) (w : Word) (v : Byte) : (s.write k busy w v).b = s.b := rfl
@[simp] theorem State.write_dp (s : State) (k : AccessKind) (busy : Bool) (w : Word) (v : Byte) : (s.write k busy w v).dp = s.dp := rfl
@[simp] theorem State.write_cc (s : State) (k : AccessKind) (busy : Bool) (w : Word) (v : Byte) : (s.write k busy w v).cc = s.cc := rfl
@[simp] theorem State.write_x (s : State) (k : AccessKind) (busy : Bool) (w : Word) (v : Byte) : (s.write k busy w v).x = s.x := rfl
@[simp] theorem State.write_y (s : State) (k : AccessKind) (busy : Bool) (w : Word) (v : Byte) : (s.write k busy w v).y = s.y := rfl
@[simp] theorem State.write_u (s : State) (k : AccessKind) (busy : Bool) (w : Word) (v : Byte) : (s.write k busy w v).u = s.u := rfl
@[simp] theorem State.write_sp (s : State) (k : AccessKind) (busy : Bool) (w : Word) (v : Byte) : (s.write k busy w v).sp = s.sp := rfl
@[simp] theorem State.write_pc (s : State) (k : AccessKind) (busy : Bool) (w : Word) (v : Byte) : (s.write k busy w v).pc = s.pc := rfl
@[simp] theorem State.write_nmiArmed (s : State) (k : AccessKind) (busy : Bool) (w : Word) (v : Byte) : (s.write k busy w
    v).nmiArmed = s.nmiArmed := rfl
@[simp] theorem State.write_nmiPending (s : State) (k : AccessKind) (busy : Bool) (w : Word) (v : Byte) : (s.write k busy w
    v).nmiPending = s.nmiPending := rfl
@[simp] theorem State.write_runState (s : State) (k : AccessKind) (busy : Bool) (w : Word) (v : Byte) : (s.write k busy w
    v).runState = s.runState := rfl
@[simp] theorem State.write_inputs (s : State) (k : AccessKind) (busy : Bool) (w : Word) (v : Byte) : (s.write k busy w
    v).inputs = s.inputs := rfl
@[simp] theorem State.write_tick (s : State) (k : AccessKind) (busy : Bool) (w : Word) (v : Byte) : (s.write k busy w v).tick
    = s.tick := rfl
@[simp] theorem State.write_platform (s : State) (k : AccessKind) (busy : Bool) (w : Word) (v : Byte) : (s.write k busy w
    v).bus.platform = s.bus.platform := s.bus.write_platform k busy w v

/-! ### didReadWord -/

@[simp] theorem State.didReadWord_a (s : State) (k : AccessKind) (w : Word) : (s.didReadWord k w).a = s.a := rfl
@[simp] theorem State.didReadWord_b (s : State) (k : AccessKind) (w : Word) : (s.didReadWord k w).b = s.b := rfl
@[simp] theorem State.didReadWord_dp (s : State) (k : AccessKind) (w : Word) : (s.didReadWord k w).dp = s.dp := rfl
@[simp] theorem State.didReadWord_cc (s : State) (k : AccessKind) (w : Word) : (s.didReadWord k w).cc = s.cc := rfl
@[simp] theorem State.didReadWord_x (s : State) (k : AccessKind) (w : Word) : (s.didReadWord k w).x = s.x := rfl
@[simp] theorem State.didReadWord_y (s : State) (k : AccessKind) (w : Word) : (s.didReadWord k w).y = s.y := rfl
@[simp] theorem State.didReadWord_u (s : State) (k : AccessKind) (w : Word) : (s.didReadWord k w).u = s.u := rfl
@[simp] theorem State.didReadWord_sp (s : State) (k : AccessKind) (w : Word) : (s.didReadWord k w).sp = s.sp := rfl
@[simp] theorem State.didReadWord_pc (s : State) (k : AccessKind) (w : Word) : (s.didReadWord k w).pc = s.pc := rfl
@[simp] theorem State.didReadWord_nmiArmed (s : State) (k : AccessKind) (w : Word) : (s.didReadWord k w).nmiArmed = s.nmiArmed := rfl
@[simp] theorem State.didReadWord_nmiPending (s : State) (k : AccessKind) (w : Word) : (s.didReadWord k w).nmiPending = s.nmiPending := rfl
@[simp] theorem State.didReadWord_runState (s : State) (k : AccessKind) (w : Word) : (s.didReadWord k w).runState = s.runState := rfl
@[simp] theorem State.didReadWord_inputs (s : State) (k : AccessKind) (w : Word) : (s.didReadWord k w).inputs = s.inputs := rfl
@[simp] theorem State.didReadWord_tick (s : State) (k : AccessKind) (w : Word) : (s.didReadWord k w).tick = s.tick := rfl
@[simp] theorem State.didReadWord_platform (s : State) (k : AccessKind) (w : Word) : (s.didReadWord k w).bus.platform =
    s.bus.platform := by simp [State.didReadWord]

/-! ### writeWord -/

@[simp] theorem State.writeWord_a (s : State) (k : AccessKind) (w v : Word) : (s.writeWord k w v).a = s.a := rfl
@[simp] theorem State.writeWord_b (s : State) (k : AccessKind) (w v : Word) : (s.writeWord k w v).b = s.b := rfl
@[simp] theorem State.writeWord_dp (s : State) (k : AccessKind) (w v : Word) : (s.writeWord k w v).dp = s.dp := rfl
@[simp] theorem State.writeWord_cc (s : State) (k : AccessKind) (w v : Word) : (s.writeWord k w v).cc = s.cc := rfl
@[simp] theorem State.writeWord_x (s : State) (k : AccessKind) (w v : Word) : (s.writeWord k w v).x = s.x := rfl
@[simp] theorem State.writeWord_y (s : State) (k : AccessKind) (w v : Word) : (s.writeWord k w v).y = s.y := rfl
@[simp] theorem State.writeWord_u (s : State) (k : AccessKind) (w v : Word) : (s.writeWord k w v).u = s.u := rfl
@[simp] theorem State.writeWord_sp (s : State) (k : AccessKind) (w v : Word) : (s.writeWord k w v).sp = s.sp := rfl
@[simp] theorem State.writeWord_pc (s : State) (k : AccessKind) (w v : Word) : (s.writeWord k w v).pc = s.pc := rfl
@[simp] theorem State.writeWord_nmiArmed (s : State) (k : AccessKind) (w v : Word) : (s.writeWord k w v).nmiArmed = s.nmiArmed := rfl
@[simp] theorem State.writeWord_nmiPending (s : State) (k : AccessKind) (w v : Word) : (s.writeWord k w v).nmiPending = s.nmiPending := rfl
@[simp] theorem State.writeWord_runState (s : State) (k : AccessKind) (w v : Word) : (s.writeWord k w v).runState = s.runState := rfl
@[simp] theorem State.writeWord_inputs (s : State) (k : AccessKind) (w v : Word) : (s.writeWord k w v).inputs = s.inputs := rfl
@[simp] theorem State.writeWord_tick (s : State) (k : AccessKind) (w v : Word) : (s.writeWord k w v).tick = s.tick := rfl
@[simp] theorem State.writeWord_platform (s : State) (k : AccessKind) (w v : Word) : (s.writeWord k w v).bus.platform =
    s.bus.platform := by simp [State.writeWord]

/-! ### loadVector -/

@[simp] theorem State.loadVector_a (s : State) (w : Word) : (s.loadVector w).a = s.a := rfl
@[simp] theorem State.loadVector_b (s : State) (w : Word) : (s.loadVector w).b = s.b := rfl
@[simp] theorem State.loadVector_dp (s : State) (w : Word) : (s.loadVector w).dp = s.dp := rfl
@[simp] theorem State.loadVector_cc (s : State) (w : Word) : (s.loadVector w).cc = s.cc := rfl
@[simp] theorem State.loadVector_x (s : State) (w : Word) : (s.loadVector w).x = s.x := rfl
@[simp] theorem State.loadVector_y (s : State) (w : Word) : (s.loadVector w).y = s.y := rfl
@[simp] theorem State.loadVector_u (s : State) (w : Word) : (s.loadVector w).u = s.u := rfl
@[simp] theorem State.loadVector_sp (s : State) (w : Word) : (s.loadVector w).sp = s.sp := rfl
@[simp] theorem State.loadVector_nmiArmed (s : State) (w : Word) : (s.loadVector w).nmiArmed = s.nmiArmed := rfl
@[simp] theorem State.loadVector_nmiPending (s : State) (w : Word) : (s.loadVector w).nmiPending = s.nmiPending := rfl
@[simp] theorem State.loadVector_runState (s : State) (w : Word) : (s.loadVector w).runState = s.runState := rfl
@[simp] theorem State.loadVector_inputs (s : State) (w : Word) : (s.loadVector w).inputs = s.inputs := rfl
@[simp] theorem State.loadVector_tick (s : State) (w : Word) : (s.loadVector w).tick = s.tick := rfl
@[simp] theorem State.loadVector_platform (s : State) (w : Word) : (s.loadVector w).bus.platform = s.bus.platform :=
    s.didReadWord_platform .vector w

/-! ### push8 -/

@[simp] theorem State.push8_a (s : State) (k : Stack) (v : Byte) : (s.push8 k v).a = s.a := by simp [State.push8]
@[simp] theorem State.push8_b (s : State) (k : Stack) (v : Byte) : (s.push8 k v).b = s.b := by simp [State.push8]
@[simp] theorem State.push8_dp (s : State) (k : Stack) (v : Byte) : (s.push8 k v).dp = s.dp := by simp [State.push8]
@[simp] theorem State.push8_cc (s : State) (k : Stack) (v : Byte) : (s.push8 k v).cc = s.cc := by simp [State.push8]
@[simp] theorem State.push8_x (s : State) (k : Stack) (v : Byte) : (s.push8 k v).x = s.x := by simp [State.push8]
@[simp] theorem State.push8_y (s : State) (k : Stack) (v : Byte) : (s.push8 k v).y = s.y := by simp [State.push8]
@[simp] theorem State.push8_pc (s : State) (k : Stack) (v : Byte) : (s.push8 k v).pc = s.pc := by simp [State.push8]
@[simp] theorem State.push8_nmiArmed (s : State) (k : Stack) (v : Byte) : (s.push8 k v).nmiArmed = s.nmiArmed := by simp [State.push8]
@[simp] theorem State.push8_nmiPending (s : State) (k : Stack) (v : Byte) : (s.push8 k v).nmiPending = s.nmiPending := by simp [State.push8]
@[simp] theorem State.push8_runState (s : State) (k : Stack) (v : Byte) : (s.push8 k v).runState = s.runState := by simp [State.push8]
@[simp] theorem State.push8_inputs (s : State) (k : Stack) (v : Byte) : (s.push8 k v).inputs = s.inputs := by simp [State.push8]
@[simp] theorem State.push8_tick (s : State) (k : Stack) (v : Byte) : (s.push8 k v).tick = s.tick := by simp [State.push8]
@[simp] theorem State.push8_platform (s : State) (k : Stack) (v : Byte) : (s.push8 k v).bus.platform = s.bus.platform := by
  simp [State.push8]

/-! ### push16 -/

@[simp] theorem State.push16_a (s : State) (k : Stack) (v : Word) : (s.push16 k v).a = s.a := by simp [State.push16]
@[simp] theorem State.push16_b (s : State) (k : Stack) (v : Word) : (s.push16 k v).b = s.b := by simp [State.push16]
@[simp] theorem State.push16_dp (s : State) (k : Stack) (v : Word) : (s.push16 k v).dp = s.dp := by simp [State.push16]
@[simp] theorem State.push16_cc (s : State) (k : Stack) (v : Word) : (s.push16 k v).cc = s.cc := by simp [State.push16]
@[simp] theorem State.push16_x (s : State) (k : Stack) (v : Word) : (s.push16 k v).x = s.x := by simp [State.push16]
@[simp] theorem State.push16_y (s : State) (k : Stack) (v : Word) : (s.push16 k v).y = s.y := by simp [State.push16]
@[simp] theorem State.push16_pc (s : State) (k : Stack) (v : Word) : (s.push16 k v).pc = s.pc := by simp [State.push16]
@[simp] theorem State.push16_nmiArmed (s : State) (k : Stack) (v : Word) : (s.push16 k v).nmiArmed = s.nmiArmed := by simp [State.push16]
@[simp] theorem State.push16_nmiPending (s : State) (k : Stack) (v : Word) : (s.push16 k v).nmiPending = s.nmiPending := by
  simp [State.push16]
@[simp] theorem State.push16_runState (s : State) (k : Stack) (v : Word) : (s.push16 k v).runState = s.runState := by simp [State.push16]
@[simp] theorem State.push16_inputs (s : State) (k : Stack) (v : Word) : (s.push16 k v).inputs = s.inputs := by simp [State.push16]
@[simp] theorem State.push16_tick (s : State) (k : Stack) (v : Word) : (s.push16 k v).tick = s.tick := by simp [State.push16]
@[simp] theorem State.push16_platform (s : State) (k : Stack) (v : Word) : (s.push16 k v).bus.platform = s.bus.platform := by
  simp [State.push16]

/-! ### push8If -/

@[simp] theorem State.push8If_a (s : State) (k : Stack) (c : Bool) (v : Byte) : (s.push8If k c v).a = s.a := by
  cases c <;> simp [State.push8If]
@[simp] theorem State.push8If_b (s : State) (k : Stack) (c : Bool) (v : Byte) : (s.push8If k c v).b = s.b := by
  cases c <;> simp [State.push8If]
@[simp] theorem State.push8If_dp (s : State) (k : Stack) (c : Bool) (v : Byte) : (s.push8If k c v).dp = s.dp := by
  cases c <;> simp [State.push8If]
@[simp] theorem State.push8If_cc (s : State) (k : Stack) (c : Bool) (v : Byte) : (s.push8If k c v).cc = s.cc := by
  cases c <;> simp [State.push8If]
@[simp] theorem State.push8If_x (s : State) (k : Stack) (c : Bool) (v : Byte) : (s.push8If k c v).x = s.x := by
  cases c <;> simp [State.push8If]
@[simp] theorem State.push8If_y (s : State) (k : Stack) (c : Bool) (v : Byte) : (s.push8If k c v).y = s.y := by
  cases c <;> simp [State.push8If]
@[simp] theorem State.push8If_pc (s : State) (k : Stack) (c : Bool) (v : Byte) : (s.push8If k c v).pc = s.pc := by
  cases c <;> simp [State.push8If]
@[simp] theorem State.push8If_nmiArmed (s : State) (k : Stack) (c : Bool) (v : Byte) : (s.push8If k c v).nmiArmed =
    s.nmiArmed := by cases c <;> simp [State.push8If]
@[simp] theorem State.push8If_nmiPending (s : State) (k : Stack) (c : Bool) (v : Byte) : (s.push8If k c v).nmiPending =
    s.nmiPending := by cases c <;> simp [State.push8If]
@[simp] theorem State.push8If_runState (s : State) (k : Stack) (c : Bool) (v : Byte) : (s.push8If k c v).runState =
    s.runState := by cases c <;> simp [State.push8If]
@[simp] theorem State.push8If_inputs (s : State) (k : Stack) (c : Bool) (v : Byte) : (s.push8If k c v).inputs = s.inputs := by
  cases c <;> simp [State.push8If]
@[simp] theorem State.push8If_tick (s : State) (k : Stack) (c : Bool) (v : Byte) : (s.push8If k c v).tick = s.tick := by
  cases c <;> simp [State.push8If]
@[simp] theorem State.push8If_platform (s : State) (k : Stack) (c : Bool) (v : Byte) : (s.push8If k c v).bus.platform =
    s.bus.platform := by cases c <;> simp [State.push8If]

/-! ### push16If -/

@[simp] theorem State.push16If_a (s : State) (k : Stack) (c : Bool) (v : Word) : (s.push16If k c v).a = s.a := by
  cases c <;> simp [State.push16If]
@[simp] theorem State.push16If_b (s : State) (k : Stack) (c : Bool) (v : Word) : (s.push16If k c v).b = s.b := by
  cases c <;> simp [State.push16If]
@[simp] theorem State.push16If_dp (s : State) (k : Stack) (c : Bool) (v : Word) : (s.push16If k c v).dp = s.dp := by
  cases c <;> simp [State.push16If]
@[simp] theorem State.push16If_cc (s : State) (k : Stack) (c : Bool) (v : Word) : (s.push16If k c v).cc = s.cc := by
  cases c <;> simp [State.push16If]
@[simp] theorem State.push16If_x (s : State) (k : Stack) (c : Bool) (v : Word) : (s.push16If k c v).x = s.x := by
  cases c <;> simp [State.push16If]
@[simp] theorem State.push16If_y (s : State) (k : Stack) (c : Bool) (v : Word) : (s.push16If k c v).y = s.y := by
  cases c <;> simp [State.push16If]
@[simp] theorem State.push16If_pc (s : State) (k : Stack) (c : Bool) (v : Word) : (s.push16If k c v).pc = s.pc := by
  cases c <;> simp [State.push16If]
@[simp] theorem State.push16If_nmiArmed (s : State) (k : Stack) (c : Bool) (v : Word) : (s.push16If k c v).nmiArmed =
    s.nmiArmed := by cases c <;> simp [State.push16If]
@[simp] theorem State.push16If_nmiPending (s : State) (k : Stack) (c : Bool) (v : Word) : (s.push16If k c v).nmiPending =
    s.nmiPending := by cases c <;> simp [State.push16If]
@[simp] theorem State.push16If_runState (s : State) (k : Stack) (c : Bool) (v : Word) : (s.push16If k c v).runState =
    s.runState := by cases c <;> simp [State.push16If]
@[simp] theorem State.push16If_inputs (s : State) (k : Stack) (c : Bool) (v : Word) : (s.push16If k c v).inputs = s.inputs := by
  cases c <;> simp [State.push16If]
@[simp] theorem State.push16If_tick (s : State) (k : Stack) (c : Bool) (v : Word) : (s.push16If k c v).tick = s.tick := by
  cases c <;> simp [State.push16If]
@[simp] theorem State.push16If_platform (s : State) (k : Stack) (c : Bool) (v : Word) : (s.push16If k c v).bus.platform =
    s.bus.platform := by cases c <;> simp [State.push16If]

/-! ### popped8 -/

@[simp] theorem State.popped8_a (s : State) (k : Stack) : (s.popped8 k).a = s.a := by simp [State.popped8]
@[simp] theorem State.popped8_b (s : State) (k : Stack) : (s.popped8 k).b = s.b := by simp [State.popped8]
@[simp] theorem State.popped8_dp (s : State) (k : Stack) : (s.popped8 k).dp = s.dp := by simp [State.popped8]
@[simp] theorem State.popped8_cc (s : State) (k : Stack) : (s.popped8 k).cc = s.cc := by simp [State.popped8]
@[simp] theorem State.popped8_x (s : State) (k : Stack) : (s.popped8 k).x = s.x := by simp [State.popped8]
@[simp] theorem State.popped8_y (s : State) (k : Stack) : (s.popped8 k).y = s.y := by simp [State.popped8]
@[simp] theorem State.popped8_pc (s : State) (k : Stack) : (s.popped8 k).pc = s.pc := by simp [State.popped8]
@[simp] theorem State.popped8_nmiArmed (s : State) (k : Stack) : (s.popped8 k).nmiArmed = s.nmiArmed := by simp [State.popped8]
@[simp] theorem State.popped8_nmiPending (s : State) (k : Stack) : (s.popped8 k).nmiPending = s.nmiPending := by simp [State.popped8]
@[simp] theorem State.popped8_runState (s : State) (k : Stack) : (s.popped8 k).runState = s.runState := by simp [State.popped8]
@[simp] theorem State.popped8_inputs (s : State) (k : Stack) : (s.popped8 k).inputs = s.inputs := by simp [State.popped8]
@[simp] theorem State.popped8_tick (s : State) (k : Stack) : (s.popped8 k).tick = s.tick := by simp [State.popped8]
@[simp] theorem State.popped8_platform (s : State) (k : Stack) : (s.popped8 k).bus.platform = s.bus.platform := by simp [State.popped8]

/-! ### popped16 -/

@[simp] theorem State.popped16_a (s : State) (k : Stack) : (s.popped16 k).a = s.a := by simp [State.popped16]
@[simp] theorem State.popped16_b (s : State) (k : Stack) : (s.popped16 k).b = s.b := by simp [State.popped16]
@[simp] theorem State.popped16_dp (s : State) (k : Stack) : (s.popped16 k).dp = s.dp := by simp [State.popped16]
@[simp] theorem State.popped16_cc (s : State) (k : Stack) : (s.popped16 k).cc = s.cc := by simp [State.popped16]
@[simp] theorem State.popped16_x (s : State) (k : Stack) : (s.popped16 k).x = s.x := by simp [State.popped16]
@[simp] theorem State.popped16_y (s : State) (k : Stack) : (s.popped16 k).y = s.y := by simp [State.popped16]
@[simp] theorem State.popped16_pc (s : State) (k : Stack) : (s.popped16 k).pc = s.pc := by simp [State.popped16]
@[simp] theorem State.popped16_nmiArmed (s : State) (k : Stack) : (s.popped16 k).nmiArmed = s.nmiArmed := by simp [State.popped16]
@[simp] theorem State.popped16_nmiPending (s : State) (k : Stack) : (s.popped16 k).nmiPending = s.nmiPending := by simp [State.popped16]
@[simp] theorem State.popped16_runState (s : State) (k : Stack) : (s.popped16 k).runState = s.runState := by simp [State.popped16]
@[simp] theorem State.popped16_inputs (s : State) (k : Stack) : (s.popped16 k).inputs = s.inputs := by simp [State.popped16]
@[simp] theorem State.popped16_tick (s : State) (k : Stack) : (s.popped16 k).tick = s.tick := by simp [State.popped16]
@[simp] theorem State.popped16_platform (s : State) (k : Stack) : (s.popped16 k).bus.platform = s.bus.platform := by simp [State.popped16]

/-! ### pushRegs -/

@[simp] theorem State.pushRegs_a (s : State) (k : Stack) (l : RegList) : (s.pushRegs k l).a = s.a := by simp [State.pushRegs]
@[simp] theorem State.pushRegs_b (s : State) (k : Stack) (l : RegList) : (s.pushRegs k l).b = s.b := by simp [State.pushRegs]
@[simp] theorem State.pushRegs_dp (s : State) (k : Stack) (l : RegList) : (s.pushRegs k l).dp = s.dp := by simp [State.pushRegs]
@[simp] theorem State.pushRegs_cc (s : State) (k : Stack) (l : RegList) : (s.pushRegs k l).cc = s.cc := by simp [State.pushRegs]
@[simp] theorem State.pushRegs_x (s : State) (k : Stack) (l : RegList) : (s.pushRegs k l).x = s.x := by simp [State.pushRegs]
@[simp] theorem State.pushRegs_y (s : State) (k : Stack) (l : RegList) : (s.pushRegs k l).y = s.y := by simp [State.pushRegs]
@[simp] theorem State.pushRegs_pc (s : State) (k : Stack) (l : RegList) : (s.pushRegs k l).pc = s.pc := by simp [State.pushRegs]
@[simp] theorem State.pushRegs_nmiArmed (s : State) (k : Stack) (l : RegList) : (s.pushRegs k l).nmiArmed = s.nmiArmed := by
  simp [State.pushRegs]
@[simp] theorem State.pushRegs_nmiPending (s : State) (k : Stack) (l : RegList) : (s.pushRegs k l).nmiPending = s.nmiPending
    := by simp [State.pushRegs]
@[simp] theorem State.pushRegs_runState (s : State) (k : Stack) (l : RegList) : (s.pushRegs k l).runState = s.runState := by
  simp [State.pushRegs]
@[simp] theorem State.pushRegs_inputs (s : State) (k : Stack) (l : RegList) : (s.pushRegs k l).inputs = s.inputs := by simp [State.pushRegs]
@[simp] theorem State.pushRegs_tick (s : State) (k : Stack) (l : RegList) : (s.pushRegs k l).tick = s.tick := by simp [State.pushRegs]
@[simp] theorem State.pushRegs_platform (s : State) (k : Stack) (l : RegList) : (s.pushRegs k l).bus.platform =
    s.bus.platform := by simp [State.pushRegs]

/-! ### pushEntireState -/

@[simp] theorem State.pushEntireState_a (s : State) : (s.pushEntireState).a = s.a := by simp [State.pushEntireState]
@[simp] theorem State.pushEntireState_b (s : State) : (s.pushEntireState).b = s.b := by simp [State.pushEntireState]
@[simp] theorem State.pushEntireState_dp (s : State) : (s.pushEntireState).dp = s.dp := by simp [State.pushEntireState]
@[simp] theorem State.pushEntireState_cc (s : State) : (s.pushEntireState).cc = s.cc := by simp [State.pushEntireState]
@[simp] theorem State.pushEntireState_x (s : State) : (s.pushEntireState).x = s.x := by simp [State.pushEntireState]
@[simp] theorem State.pushEntireState_y (s : State) : (s.pushEntireState).y = s.y := by simp [State.pushEntireState]
@[simp] theorem State.pushEntireState_pc (s : State) : (s.pushEntireState).pc = s.pc := by simp [State.pushEntireState]
@[simp] theorem State.pushEntireState_nmiArmed (s : State) : (s.pushEntireState).nmiArmed = s.nmiArmed := by simp [State.pushEntireState]
@[simp] theorem State.pushEntireState_nmiPending (s : State) : (s.pushEntireState).nmiPending = s.nmiPending := by
  simp [State.pushEntireState]
@[simp] theorem State.pushEntireState_runState (s : State) : (s.pushEntireState).runState = s.runState := by simp [State.pushEntireState]
@[simp] theorem State.pushEntireState_inputs (s : State) : (s.pushEntireState).inputs = s.inputs := by simp [State.pushEntireState]
@[simp] theorem State.pushEntireState_tick (s : State) : (s.pushEntireState).tick = s.tick := by simp [State.pushEntireState]
@[simp] theorem State.pushEntireState_platform (s : State) : (s.pushEntireState).bus.platform = s.bus.platform := by
  simp [State.pushEntireState]

/-! ### setMasks -/

@[simp] theorem State.setMasks_a (s : State) (e : Exc) : (s.setMasks e).a = s.a := by cases e <;> rfl
@[simp] theorem State.setMasks_b (s : State) (e : Exc) : (s.setMasks e).b = s.b := by cases e <;> rfl
@[simp] theorem State.setMasks_dp (s : State) (e : Exc) : (s.setMasks e).dp = s.dp := by cases e <;> rfl
@[simp] theorem State.setMasks_x (s : State) (e : Exc) : (s.setMasks e).x = s.x := by cases e <;> rfl
@[simp] theorem State.setMasks_y (s : State) (e : Exc) : (s.setMasks e).y = s.y := by cases e <;> rfl
@[simp] theorem State.setMasks_u (s : State) (e : Exc) : (s.setMasks e).u = s.u := by cases e <;> rfl
@[simp] theorem State.setMasks_sp (s : State) (e : Exc) : (s.setMasks e).sp = s.sp := by cases e <;> rfl
@[simp] theorem State.setMasks_pc (s : State) (e : Exc) : (s.setMasks e).pc = s.pc := by cases e <;> rfl
@[simp] theorem State.setMasks_nmiArmed (s : State) (e : Exc) : (s.setMasks e).nmiArmed = s.nmiArmed := by cases e <;> rfl
@[simp] theorem State.setMasks_nmiPending (s : State) (e : Exc) : (s.setMasks e).nmiPending = s.nmiPending := by cases e <;> rfl
@[simp] theorem State.setMasks_runState (s : State) (e : Exc) : (s.setMasks e).runState = s.runState := by cases e <;> rfl
@[simp] theorem State.setMasks_bus (s : State) (e : Exc) : (s.setMasks e).bus = s.bus := by cases e <;> rfl
@[simp] theorem State.setMasks_inputs (s : State) (e : Exc) : (s.setMasks e).inputs = s.inputs := by cases e <;> rfl
@[simp] theorem State.setMasks_tick (s : State) (e : Exc) : (s.setMasks e).tick = s.tick := by cases e <;> rfl

/-! ### keepFrame -/

@[simp] theorem State.keepFrame_a (s : State) (e : Exc) : (s.keepFrame e).a = s.a := by cases e <;> rfl
@[simp] theorem State.keepFrame_b (s : State) (e : Exc) : (s.keepFrame e).b = s.b := by cases e <;> rfl
@[simp] theorem State.keepFrame_dp (s : State) (e : Exc) : (s.keepFrame e).dp = s.dp := by cases e <;> rfl
@[simp] theorem State.keepFrame_x (s : State) (e : Exc) : (s.keepFrame e).x = s.x := by cases e <;> rfl
@[simp] theorem State.keepFrame_y (s : State) (e : Exc) : (s.keepFrame e).y = s.y := by cases e <;> rfl
@[simp] theorem State.keepFrame_u (s : State) (e : Exc) : (s.keepFrame e).u = s.u := by cases e <;> rfl
@[simp] theorem State.keepFrame_sp (s : State) (e : Exc) : (s.keepFrame e).sp = s.sp := by cases e <;> rfl
@[simp] theorem State.keepFrame_pc (s : State) (e : Exc) : (s.keepFrame e).pc = s.pc := by cases e <;> rfl
@[simp] theorem State.keepFrame_nmiArmed (s : State) (e : Exc) : (s.keepFrame e).nmiArmed = s.nmiArmed := by cases e <;> rfl
@[simp] theorem State.keepFrame_nmiPending (s : State) (e : Exc) : (s.keepFrame e).nmiPending = s.nmiPending := by cases e <;> rfl
@[simp] theorem State.keepFrame_runState (s : State) (e : Exc) : (s.keepFrame e).runState = s.runState := by cases e <;> rfl
@[simp] theorem State.keepFrame_bus (s : State) (e : Exc) : (s.keepFrame e).bus = s.bus := by cases e <;> rfl
@[simp] theorem State.keepFrame_inputs (s : State) (e : Exc) : (s.keepFrame e).inputs = s.inputs := by cases e <;> rfl
@[simp] theorem State.keepFrame_tick (s : State) (e : Exc) : (s.keepFrame e).tick = s.tick := by cases e <;> rfl

/-! ### stackFrame -/

@[simp] theorem State.stackFrame_a (s : State) (e : Exc) : (s.stackFrame e).a = s.a := by cases e <;> simp [State.stackFrame]
@[simp] theorem State.stackFrame_b (s : State) (e : Exc) : (s.stackFrame e).b = s.b := by cases e <;> simp [State.stackFrame]
@[simp] theorem State.stackFrame_dp (s : State) (e : Exc) : (s.stackFrame e).dp = s.dp := by cases e <;> simp [State.stackFrame]
@[simp] theorem State.stackFrame_x (s : State) (e : Exc) : (s.stackFrame e).x = s.x := by cases e <;> simp [State.stackFrame]
@[simp] theorem State.stackFrame_y (s : State) (e : Exc) : (s.stackFrame e).y = s.y := by cases e <;> simp [State.stackFrame]
@[simp] theorem State.stackFrame_pc (s : State) (e : Exc) : (s.stackFrame e).pc = s.pc := by cases e <;> simp [State.stackFrame]
@[simp] theorem State.stackFrame_nmiArmed (s : State) (e : Exc) : (s.stackFrame e).nmiArmed = s.nmiArmed := by
  cases e <;> simp [State.stackFrame]
@[simp] theorem State.stackFrame_nmiPending (s : State) (e : Exc) : (s.stackFrame e).nmiPending = s.nmiPending := by
  cases e <;> simp [State.stackFrame]
@[simp] theorem State.stackFrame_runState (s : State) (e : Exc) : (s.stackFrame e).runState = s.runState := by
  cases e <;> simp [State.stackFrame]
@[simp] theorem State.stackFrame_inputs (s : State) (e : Exc) : (s.stackFrame e).inputs = s.inputs := by cases e <;> simp [State.stackFrame]
@[simp] theorem State.stackFrame_tick (s : State) (e : Exc) : (s.stackFrame e).tick = s.tick := by cases e <;> simp [State.stackFrame]
@[simp] theorem State.stackFrame_platform (s : State) (e : Exc) : (s.stackFrame e).bus.platform = s.bus.platform := by
  cases e <;> simp [State.stackFrame]

/-! ### resetTo -/

@[simp] theorem State.resetTo_a (s : State) (d : ResetDraws) : (s.resetTo d).a = d.a := rfl
@[simp] theorem State.resetTo_b (s : State) (d : ResetDraws) : (s.resetTo d).b = d.b := rfl
@[simp] theorem State.resetTo_dp (s : State) (d : ResetDraws) : (s.resetTo d).dp = 0 := rfl
@[simp] theorem State.resetTo_cc (s : State) (d : ResetDraws) : (s.resetTo d).cc = setFlag .i true (setFlag .f true d.cc) := rfl
@[simp] theorem State.resetTo_x (s : State) (d : ResetDraws) : (s.resetTo d).x = d.x := rfl
@[simp] theorem State.resetTo_y (s : State) (d : ResetDraws) : (s.resetTo d).y = d.y := rfl
@[simp] theorem State.resetTo_u (s : State) (d : ResetDraws) : (s.resetTo d).u = d.u := rfl
@[simp] theorem State.resetTo_sp (s : State) (d : ResetDraws) : (s.resetTo d).sp = d.sp := rfl
@[simp] theorem State.resetTo_nmiArmed (s : State) (d : ResetDraws) : (s.resetTo d).nmiArmed = false := rfl
@[simp] theorem State.resetTo_nmiPending (s : State) (d : ResetDraws) : (s.resetTo d).nmiPending = false := rfl
@[simp] theorem State.resetTo_runState (s : State) (d : ResetDraws) : (s.resetTo d).runState = .running := rfl
@[simp] theorem State.resetTo_inputs (s : State) (d : ResetDraws) : (s.resetTo d).inputs = s.inputs := rfl
@[simp] theorem State.resetTo_tick (s : State) (d : ResetDraws) : (s.resetTo d).tick = s.tick := rfl
@[simp] theorem State.resetTo_platform (s : State) (d : ResetDraws) : (s.resetTo d).bus.platform = s.bus.platform := by simp [State.resetTo]

/-! ### idxStep -/

@[simp] theorem State.idxStep_a (s : State) (ix : Idx) : (s.idxStep ix).a = s.a := by cases ix <;> simp [State.idxStep]
@[simp] theorem State.idxStep_b (s : State) (ix : Idx) : (s.idxStep ix).b = s.b := by cases ix <;> simp [State.idxStep]
@[simp] theorem State.idxStep_dp (s : State) (ix : Idx) : (s.idxStep ix).dp = s.dp := by cases ix <;> simp [State.idxStep]
@[simp] theorem State.idxStep_cc (s : State) (ix : Idx) : (s.idxStep ix).cc = s.cc := by cases ix <;> simp [State.idxStep]
@[simp] theorem State.idxStep_pc (s : State) (ix : Idx) : (s.idxStep ix).pc = s.pc := by cases ix <;> simp [State.idxStep]
@[simp] theorem State.idxStep_nmiArmed (s : State) (ix : Idx) : (s.idxStep ix).nmiArmed = s.nmiArmed := by cases ix <;> simp [State.idxStep]
@[simp] theorem State.idxStep_nmiPending (s : State) (ix : Idx) : (s.idxStep ix).nmiPending = s.nmiPending := by
  cases ix <;> simp [State.idxStep]
@[simp] theorem State.idxStep_runState (s : State) (ix : Idx) : (s.idxStep ix).runState = s.runState := by cases ix <;> simp [State.idxStep]
@[simp] theorem State.idxStep_bus (s : State) (ix : Idx) : (s.idxStep ix).bus = s.bus := by cases ix <;> simp [State.idxStep]
@[simp] theorem State.idxStep_inputs (s : State) (ix : Idx) : (s.idxStep ix).inputs = s.inputs := by cases ix <;> simp [State.idxStep]
@[simp] theorem State.idxStep_tick (s : State) (ix : Idx) : (s.idxStep ix).tick = s.tick := by cases ix <;> simp [State.idxStep]

/-! ### afterIdx -/

@[simp] theorem State.afterIdx_a (s : State) (ix : Idx) : (s.afterIdx ix).a = s.a := by unfold State.afterIdx; split <;> simp
@[simp] theorem State.afterIdx_b (s : State) (ix : Idx) : (s.afterIdx ix).b = s.b := by unfold State.afterIdx; split <;> simp
@[simp] theorem State.afterIdx_dp (s : State) (ix : Idx) : (s.afterIdx ix).dp = s.dp := by unfold State.afterIdx; split <;> simp
@[simp] theorem State.afterIdx_cc (s : State) (ix : Idx) : (s.afterIdx ix).cc = s.cc := by unfold State.afterIdx; split <;> simp
@[simp] theorem State.afterIdx_pc (s : State) (ix : Idx) : (s.afterIdx ix).pc = s.pc := by unfold State.afterIdx; split <;> simp
@[simp] theorem State.afterIdx_nmiArmed (s : State) (ix : Idx) : (s.afterIdx ix).nmiArmed = s.nmiArmed := by
  unfold State.afterIdx; split <;> simp
@[simp] theorem State.afterIdx_nmiPending (s : State) (ix : Idx) : (s.afterIdx ix).nmiPending = s.nmiPending := by
  unfold State.afterIdx; split <;> simp
@[simp] theorem State.afterIdx_runState (s : State) (ix : Idx) : (s.afterIdx ix).runState = s.runState := by
  unfold State.afterIdx; split <;> simp
@[simp] theorem State.afterIdx_inputs (s : State) (ix : Idx) : (s.afterIdx ix).inputs = s.inputs := by unfold State.afterIdx; split <;> simp
@[simp] theorem State.afterIdx_tick (s : State) (ix : Idx) : (s.afterIdx ix).tick = s.tick := by unfold State.afterIdx; split <;> simp
@[simp] theorem State.afterIdx_platform (s : State) (ix : Idx) : (s.afterIdx ix).bus.platform = s.bus.platform := by
  unfold State.afterIdx; split <;> simp

/-! ### afterEA -/

@[simp] theorem State.afterEA_a (s : State) (o : Mem) : (s.afterEA o).a = s.a := by cases o <;> simp [State.afterEA]
@[simp] theorem State.afterEA_b (s : State) (o : Mem) : (s.afterEA o).b = s.b := by cases o <;> simp [State.afterEA]
@[simp] theorem State.afterEA_dp (s : State) (o : Mem) : (s.afterEA o).dp = s.dp := by cases o <;> simp [State.afterEA]
@[simp] theorem State.afterEA_cc (s : State) (o : Mem) : (s.afterEA o).cc = s.cc := by cases o <;> simp [State.afterEA]
@[simp] theorem State.afterEA_pc (s : State) (o : Mem) : (s.afterEA o).pc = s.pc := by cases o <;> simp [State.afterEA]
@[simp] theorem State.afterEA_nmiArmed (s : State) (o : Mem) : (s.afterEA o).nmiArmed = s.nmiArmed := by cases o <;> simp [State.afterEA]
@[simp] theorem State.afterEA_nmiPending (s : State) (o : Mem) : (s.afterEA o).nmiPending = s.nmiPending := by
  cases o <;> simp [State.afterEA]
@[simp] theorem State.afterEA_runState (s : State) (o : Mem) : (s.afterEA o).runState = s.runState := by cases o <;> simp [State.afterEA]
@[simp] theorem State.afterEA_inputs (s : State) (o : Mem) : (s.afterEA o).inputs = s.inputs := by cases o <;> simp [State.afterEA]
@[simp] theorem State.afterEA_tick (s : State) (o : Mem) : (s.afterEA o).tick = s.tick := by cases o <;> simp [State.afterEA]
@[simp] theorem State.afterEA_platform (s : State) (o : Mem) : (s.afterEA o).bus.platform = s.bus.platform := by
  cases o <;> simp [State.afterEA]

/-! ### after8 -/

@[simp] theorem State.after8_a (s : State) (o : Src8) : (s.after8 o).a = s.a := by cases o <;> simp [State.after8]
@[simp] theorem State.after8_b (s : State) (o : Src8) : (s.after8 o).b = s.b := by cases o <;> simp [State.after8]
@[simp] theorem State.after8_dp (s : State) (o : Src8) : (s.after8 o).dp = s.dp := by cases o <;> simp [State.after8]
@[simp] theorem State.after8_cc (s : State) (o : Src8) : (s.after8 o).cc = s.cc := by cases o <;> simp [State.after8]
@[simp] theorem State.after8_pc (s : State) (o : Src8) : (s.after8 o).pc = s.pc := by cases o <;> simp [State.after8]
@[simp] theorem State.after8_nmiArmed (s : State) (o : Src8) : (s.after8 o).nmiArmed = s.nmiArmed := by cases o <;> simp [State.after8]
@[simp] theorem State.after8_nmiPending (s : State) (o : Src8) : (s.after8 o).nmiPending = s.nmiPending := by
  cases o <;> simp [State.after8]
@[simp] theorem State.after8_runState (s : State) (o : Src8) : (s.after8 o).runState = s.runState := by cases o <;> simp [State.after8]
@[simp] theorem State.after8_inputs (s : State) (o : Src8) : (s.after8 o).inputs = s.inputs := by cases o <;> simp [State.after8]
@[simp] theorem State.after8_tick (s : State) (o : Src8) : (s.after8 o).tick = s.tick := by cases o <;> simp [State.after8]
@[simp] theorem State.after8_platform (s : State) (o : Src8) : (s.after8 o).bus.platform = s.bus.platform := by
  cases o <;> simp [State.after8]

/-! ### after16 -/

@[simp] theorem State.after16_a (s : State) (o : Src16) : (s.after16 o).a = s.a := by cases o <;> simp [State.after16]
@[simp] theorem State.after16_b (s : State) (o : Src16) : (s.after16 o).b = s.b := by cases o <;> simp [State.after16]
@[simp] theorem State.after16_dp (s : State) (o : Src16) : (s.after16 o).dp = s.dp := by cases o <;> simp [State.after16]
@[simp] theorem State.after16_cc (s : State) (o : Src16) : (s.after16 o).cc = s.cc := by cases o <;> simp [State.after16]
@[simp] theorem State.after16_pc (s : State) (o : Src16) : (s.after16 o).pc = s.pc := by cases o <;> simp [State.after16]
@[simp] theorem State.after16_nmiArmed (s : State) (o : Src16) : (s.after16 o).nmiArmed = s.nmiArmed := by cases o <;> simp [State.after16]
@[simp] theorem State.after16_nmiPending (s : State) (o : Src16) : (s.after16 o).nmiPending = s.nmiPending := by
  cases o <;> simp [State.after16]
@[simp] theorem State.after16_runState (s : State) (o : Src16) : (s.after16 o).runState = s.runState := by cases o <;> simp [State.after16]
@[simp] theorem State.after16_inputs (s : State) (o : Src16) : (s.after16 o).inputs = s.inputs := by cases o <;> simp [State.after16]
@[simp] theorem State.after16_tick (s : State) (o : Src16) : (s.after16 o).tick = s.tick := by cases o <;> simp [State.after16]
@[simp] theorem State.after16_platform (s : State) (o : Src16) : (s.after16 o).bus.platform = s.bus.platform := by
  cases o <;> simp [State.after16]

/-! ### latchNmi -/

@[simp] theorem State.latchNmi_nmiPending (s : State) (inp : Inputs) : (s.latchNmi inp).nmiPending = (s.nmiPending || inp.nmiEdge) := rfl
@[simp] theorem State.latchNmi_a (s : State) (inp : Inputs) : (s.latchNmi inp).a = s.a := rfl
@[simp] theorem State.latchNmi_b (s : State) (inp : Inputs) : (s.latchNmi inp).b = s.b := rfl
@[simp] theorem State.latchNmi_dp (s : State) (inp : Inputs) : (s.latchNmi inp).dp = s.dp := rfl
@[simp] theorem State.latchNmi_cc (s : State) (inp : Inputs) : (s.latchNmi inp).cc = s.cc := rfl
@[simp] theorem State.latchNmi_x (s : State) (inp : Inputs) : (s.latchNmi inp).x = s.x := rfl
@[simp] theorem State.latchNmi_y (s : State) (inp : Inputs) : (s.latchNmi inp).y = s.y := rfl
@[simp] theorem State.latchNmi_u (s : State) (inp : Inputs) : (s.latchNmi inp).u = s.u := rfl
@[simp] theorem State.latchNmi_sp (s : State) (inp : Inputs) : (s.latchNmi inp).sp = s.sp := rfl
@[simp] theorem State.latchNmi_pc (s : State) (inp : Inputs) : (s.latchNmi inp).pc = s.pc := rfl
@[simp] theorem State.latchNmi_nmiArmed (s : State) (inp : Inputs) : (s.latchNmi inp).nmiArmed = s.nmiArmed := rfl
@[simp] theorem State.latchNmi_runState (s : State) (inp : Inputs) : (s.latchNmi inp).runState = s.runState := rfl
@[simp] theorem State.latchNmi_bus (s : State) (inp : Inputs) : (s.latchNmi inp).bus = s.bus := rfl
@[simp] theorem State.latchNmi_inputs (s : State) (inp : Inputs) : (s.latchNmi inp).inputs = s.inputs := rfl
@[simp] theorem State.latchNmi_tick (s : State) (inp : Inputs) : (s.latchNmi inp).tick = s.tick := rfl

/-! ### fetched8 -/

@[simp] theorem State.fetched8_pc (s : State) (busy : Bool) : (s.fetched8 busy).pc = s.pc + 1 := rfl
@[simp] theorem State.fetched8_a (s : State) (busy : Bool) : (s.fetched8 busy).a = s.a := rfl
@[simp] theorem State.fetched8_b (s : State) (busy : Bool) : (s.fetched8 busy).b = s.b := rfl
@[simp] theorem State.fetched8_dp (s : State) (busy : Bool) : (s.fetched8 busy).dp = s.dp := rfl
@[simp] theorem State.fetched8_cc (s : State) (busy : Bool) : (s.fetched8 busy).cc = s.cc := rfl
@[simp] theorem State.fetched8_x (s : State) (busy : Bool) : (s.fetched8 busy).x = s.x := rfl
@[simp] theorem State.fetched8_y (s : State) (busy : Bool) : (s.fetched8 busy).y = s.y := rfl
@[simp] theorem State.fetched8_u (s : State) (busy : Bool) : (s.fetched8 busy).u = s.u := rfl
@[simp] theorem State.fetched8_sp (s : State) (busy : Bool) : (s.fetched8 busy).sp = s.sp := rfl
@[simp] theorem State.fetched8_nmiArmed (s : State) (busy : Bool) : (s.fetched8 busy).nmiArmed = s.nmiArmed := rfl
@[simp] theorem State.fetched8_nmiPending (s : State) (busy : Bool) : (s.fetched8 busy).nmiPending = s.nmiPending := rfl
@[simp] theorem State.fetched8_runState (s : State) (busy : Bool) : (s.fetched8 busy).runState = s.runState := rfl
@[simp] theorem State.fetched8_inputs (s : State) (busy : Bool) : (s.fetched8 busy).inputs = s.inputs := rfl
@[simp] theorem State.fetched8_tick (s : State) (busy : Bool) : (s.fetched8 busy).tick = s.tick := rfl
@[simp] theorem State.fetched8_platform (s : State) (busy : Bool) : (s.fetched8 busy).bus.platform = s.bus.platform := s.didRead_platform .fetch false s.pc

/-! ### busWrites -/

@[simp] theorem State.busWrites_a (s : State) (l : List (Word × Byte)) : (s.busWrites l).a = s.a := rfl
@[simp] theorem State.busWrites_b (s : State) (l : List (Word × Byte)) : (s.busWrites l).b = s.b := rfl
@[simp] theorem State.busWrites_dp (s : State) (l : List (Word × Byte)) : (s.busWrites l).dp = s.dp := rfl
@[simp] theorem State.busWrites_cc (s : State) (l : List (Word × Byte)) : (s.busWrites l).cc = s.cc := rfl
@[simp] theorem State.busWrites_x (s : State) (l : List (Word × Byte)) : (s.busWrites l).x = s.x := rfl
@[simp] theorem State.busWrites_y (s : State) (l : List (Word × Byte)) : (s.busWrites l).y = s.y := rfl
@[simp] theorem State.busWrites_u (s : State) (l : List (Word × Byte)) : (s.busWrites l).u = s.u := rfl
@[simp] theorem State.busWrites_sp (s : State) (l : List (Word × Byte)) : (s.busWrites l).sp = s.sp := rfl
@[simp] theorem State.busWrites_pc (s : State) (l : List (Word × Byte)) : (s.busWrites l).pc = s.pc := rfl
@[simp] theorem State.busWrites_nmiArmed (s : State) (l : List (Word × Byte)) : (s.busWrites l).nmiArmed = s.nmiArmed := rfl
@[simp] theorem State.busWrites_nmiPending (s : State) (l : List (Word × Byte)) : (s.busWrites l).nmiPending = s.nmiPending := rfl
@[simp] theorem State.busWrites_runState (s : State) (l : List (Word × Byte)) : (s.busWrites l).runState = s.runState := rfl
@[simp] theorem State.busWrites_inputs (s : State) (l : List (Word × Byte)) : (s.busWrites l).inputs = s.inputs := rfl
@[simp] theorem State.busWrites_tick (s : State) (l : List (Word × Byte)) : (s.busWrites l).tick = s.tick := rfl
@[simp] theorem State.busWrites_platform (s : State) (l : List (Word × Byte)) : (s.busWrites l).bus.platform = s.bus.platform
    := s.bus.othersWrite_platform l

/-! ### beginStep -/

@[simp] theorem State.beginStep_inputs (s : State) : (s.beginStep).inputs = s.inputs.tail := rfl
@[simp] theorem State.beginStep_tick (s : State) : (s.beginStep).tick = s.tick + 1 := rfl
@[simp] theorem State.beginStep_a (s : State) : (s.beginStep).a = s.a := rfl
@[simp] theorem State.beginStep_b (s : State) : (s.beginStep).b = s.b := rfl
@[simp] theorem State.beginStep_dp (s : State) : (s.beginStep).dp = s.dp := rfl
@[simp] theorem State.beginStep_cc (s : State) : (s.beginStep).cc = s.cc := rfl
@[simp] theorem State.beginStep_x (s : State) : (s.beginStep).x = s.x := rfl
@[simp] theorem State.beginStep_y (s : State) : (s.beginStep).y = s.y := rfl
@[simp] theorem State.beginStep_u (s : State) : (s.beginStep).u = s.u := rfl
@[simp] theorem State.beginStep_sp (s : State) : (s.beginStep).sp = s.sp := rfl
@[simp] theorem State.beginStep_pc (s : State) : (s.beginStep).pc = s.pc := rfl
@[simp] theorem State.beginStep_nmiArmed (s : State) : (s.beginStep).nmiArmed = s.nmiArmed := rfl
@[simp] theorem State.beginStep_nmiPending (s : State) : (s.beginStep).nmiPending = s.nmiPending := rfl
@[simp] theorem State.beginStep_runState (s : State) : (s.beginStep).runState = s.runState := rfl
@[simp] theorem State.beginStep_platform (s : State) : (s.beginStep).bus.platform = s.bus.platform := by simp [State.beginStep]

/-! ### pull8If, pull16If, pullRegs -/

theorem State.pull8If_nmiPending (s : State) (k : Stack) (c : Bool) (put : State → Byte → State)
    (h : ∀ t v, (put t v).nmiPending = t.nmiPending) : (s.pull8If k c put).nmiPending = s.nmiPending := by
      cases c <;> simp [State.pull8If, h]
theorem State.pull16If_nmiPending (s : State) (k : Stack) (c : Bool) (put : State → Word → State)
    (h : ∀ t v, (put t v).nmiPending = t.nmiPending) : (s.pull16If k c put).nmiPending = s.nmiPending := by
      cases c <;> simp [State.pull16If, h]
@[simp] theorem State.pullRegs_nmiPending (s : State) (k : Stack) (l : RegList) : (s.pullRegs k l).nmiPending = s.nmiPending := by
  simp [State.pullRegs, State.pull8If_nmiPending, State.pull16If_nmiPending]
@[simp] theorem State.returnFromInterrupt_nmiPending (s : State) : s.returnFromInterrupt.nmiPending = s.nmiPending := by
  simp [State.returnFromInterrupt]
theorem State.pull8If_runState (s : State) (k : Stack) (c : Bool) (put : State → Byte → State)
    (h : ∀ t v, (put t v).runState = t.runState) : (s.pull8If k c put).runState = s.runState := by cases c <;> simp [State.pull8If, h]
theorem State.pull16If_runState (s : State) (k : Stack) (c : Bool) (put : State → Word → State)
    (h : ∀ t v, (put t v).runState = t.runState) : (s.pull16If k c put).runState = s.runState := by cases c <;> simp [State.pull16If, h]
@[simp] theorem State.pullRegs_runState (s : State) (k : Stack) (l : RegList) : (s.pullRegs k l).runState = s.runState := by
  simp [State.pullRegs, State.pull8If_runState, State.pull16If_runState]
@[simp] theorem State.returnFromInterrupt_runState (s : State) : s.returnFromInterrupt.runState = s.runState := by
  simp [State.returnFromInterrupt]
theorem State.pull8If_inputs (s : State) (k : Stack) (c : Bool) (put : State → Byte → State)
    (h : ∀ t v, (put t v).inputs = t.inputs) : (s.pull8If k c put).inputs = s.inputs := by cases c <;> simp [State.pull8If, h]
theorem State.pull16If_inputs (s : State) (k : Stack) (c : Bool) (put : State → Word → State)
    (h : ∀ t v, (put t v).inputs = t.inputs) : (s.pull16If k c put).inputs = s.inputs := by cases c <;> simp [State.pull16If, h]
@[simp] theorem State.pullRegs_inputs (s : State) (k : Stack) (l : RegList) : (s.pullRegs k l).inputs = s.inputs := by
  simp [State.pullRegs, State.pull8If_inputs, State.pull16If_inputs]
@[simp] theorem State.returnFromInterrupt_inputs (s : State) : s.returnFromInterrupt.inputs = s.inputs := by
  simp [State.returnFromInterrupt]
theorem State.pull8If_tick (s : State) (k : Stack) (c : Bool) (put : State → Byte → State)
    (h : ∀ t v, (put t v).tick = t.tick) : (s.pull8If k c put).tick = s.tick := by cases c <;> simp [State.pull8If, h]
theorem State.pull16If_tick (s : State) (k : Stack) (c : Bool) (put : State → Word → State)
    (h : ∀ t v, (put t v).tick = t.tick) : (s.pull16If k c put).tick = s.tick := by cases c <;> simp [State.pull16If, h]
@[simp] theorem State.pullRegs_tick (s : State) (k : Stack) (l : RegList) : (s.pullRegs k l).tick = s.tick := by
  simp [State.pullRegs, State.pull8If_tick, State.pull16If_tick]
@[simp] theorem State.returnFromInterrupt_tick (s : State) : s.returnFromInterrupt.tick = s.tick := by
  simp [State.returnFromInterrupt]
theorem State.pull8If_platform (s : State) (k : Stack) (c : Bool) (put : State → Byte → State)
    (h : ∀ t v, (put t v).bus.platform = t.bus.platform) : (s.pull8If k c put).bus.platform = s.bus.platform := by
      cases c <;> simp [State.pull8If, h]
theorem State.pull16If_platform (s : State) (k : Stack) (c : Bool) (put : State → Word → State)
    (h : ∀ t v, (put t v).bus.platform = t.bus.platform) : (s.pull16If k c put).bus.platform = s.bus.platform := by
      cases c <;> simp [State.pull16If, h]
@[simp] theorem State.pullRegs_platform (s : State) (k : Stack) (l : RegList) : (s.pullRegs k l).bus.platform = s.bus.platform := by
  simp [State.pullRegs, State.pull8If_platform, State.pull16If_platform]
@[simp] theorem State.returnFromInterrupt_platform (s : State) : s.returnFromInterrupt.bus.platform = s.bus.platform := by
  simp [State.returnFromInterrupt]

/-! ### enter -/

@[simp] theorem State.enter_a (s : State) (e : Exc) (c : Bool) : (s.enter e c).a = s.a := by
  cases c <;> simp [State.enter]
@[simp] theorem State.enter_b (s : State) (e : Exc) (c : Bool) : (s.enter e c).b = s.b := by
  cases c <;> simp [State.enter]
@[simp] theorem State.enter_dp (s : State) (e : Exc) (c : Bool) : (s.enter e c).dp = s.dp := by
  cases c <;> simp [State.enter]
@[simp] theorem State.enter_x (s : State) (e : Exc) (c : Bool) : (s.enter e c).x = s.x := by
  cases c <;> simp [State.enter]
@[simp] theorem State.enter_y (s : State) (e : Exc) (c : Bool) : (s.enter e c).y = s.y := by
  cases c <;> simp [State.enter]
@[simp] theorem State.enter_nmiArmed (s : State) (e : Exc) (c : Bool) : (s.enter e c).nmiArmed = s.nmiArmed := by
  cases c <;> simp [State.enter]
@[simp] theorem State.enter_inputs (s : State) (e : Exc) (c : Bool) : (s.enter e c).inputs = s.inputs := by
  cases c <;> simp [State.enter]
@[simp] theorem State.enter_tick (s : State) (e : Exc) (c : Bool) : (s.enter e c).tick = s.tick := by
  cases c <;> simp [State.enter]
@[simp] theorem State.enter_runState (s : State) (e : Exc) (c : Bool) : (s.enter e c).runState = .running := rfl
@[simp] theorem State.enter_nmiPending (s : State) (e : Exc) (c : Bool) :
    (s.enter e c).nmiPending = (s.nmiPending && e != .nmi) := by
  cases c <;> simp [State.enter]
@[simp] theorem State.enter_platform (s : State) (e : Exc) (c : Bool) : (s.enter e c).bus.platform = s.bus.platform := by
  cases c <;> simp [State.enter]

/-! ### The registers through their accessors -/

@[simp] theorem State.setAcc_acc_same (s : State) (r : Acc) (v : Byte) : (s.setAcc r v).acc r = v := by cases r <;> rfl
theorem State.setAcc_acc_other (s : State) (r q : Acc) (v : Byte) (h : q ≠ r) : (s.setAcc r v).acc q = s.acc q := by
  cases r <;> cases q <;> first | rfl | exact absurd rfl h
@[simp] theorem State.setAcc_a (s : State) (v : Byte) : (s.setAcc .a v).a = v := rfl
@[simp] theorem State.setAcc_b (s : State) (v : Byte) : (s.setAcc .b v).b = v := rfl
@[simp] theorem State.setAcc_a_b (s : State) (v : Byte) : (s.setAcc .a v).b = s.b := rfl
@[simp] theorem State.setAcc_b_a (s : State) (v : Byte) : (s.setAcc .b v).a = s.a := rfl
@[simp] theorem State.setPtr_ptr_same (s : State) (r : Ptr) (v : Word) : (s.setPtr r v).ptr r = v := by cases r <;> rfl
theorem State.setPtr_ptr_other (s : State) (r q : Ptr) (v : Word) (h : q ≠ r) : (s.setPtr r v).ptr q = s.ptr q := by
  cases r <;> cases q <;> first | rfl | exact absurd rfl h
@[simp] theorem State.setTop_top (s : State) (k : Stack) (v : Word) : (s.setTop k v).top k = v := by cases k <;> rfl
@[simp] theorem State.setTop_other (s : State) (k : Stack) (v : Word) : (s.setTop k v).other k = s.other k := by
  cases k <;> rfl
@[simp] theorem State.write_top (s : State) (q : Stack) (k : AccessKind) (busy : Bool) (w : Word) (v : Byte) :
    (s.write k busy w v).top q = s.top q := by cases q <;> rfl
@[simp] theorem State.write_other (s : State) (q : Stack) (k : AccessKind) (busy : Bool) (w : Word) (v : Byte) :
    (s.write k busy w v).other q = s.other q := by cases q <;> rfl
@[simp] theorem State.didRead_other (s : State) (q : Stack) (k : AccessKind) (busy : Bool) (w : Word) :
    (s.didRead k busy w).other q = s.other q := by cases q <;> rfl
@[simp] theorem State.push8_top (s : State) (k : Stack) (v : Byte) : (s.push8 k v).top k = s.top k - 1 := by
  simp [State.push8]
@[simp] theorem State.push8_other (s : State) (k : Stack) (v : Byte) : (s.push8 k v).other k = s.other k := by
  simp [State.push8]
@[simp] theorem State.popped8_top (s : State) (k : Stack) : (s.popped8 k).top k = s.top k + 1 := by
  simp [State.popped8]
@[simp] theorem State.popped8_other (s : State) (k : Stack) : (s.popped8 k).other k = s.other k := by
  simp [State.popped8]
@[simp] theorem State.popped16_top (s : State) (k : Stack) : (s.popped16 k).top k = s.top k + 2 := by
  simp only [State.popped16, State.popped8_top]; bv_omega
@[simp] theorem State.popped16_other (s : State) (k : Stack) : (s.popped16 k).other k = s.other k := by
  simp [State.popped16]
@[simp] theorem State.push16_other (s : State) (k : Stack) (v : Word) : (s.push16 k v).other k = s.other k := by
  simp [State.push16]
@[simp] theorem State.push16_top (s : State) (k : Stack) (v : Word) : (s.push16 k v).top k = s.top k - 2 := by
  simp only [State.push16, State.push8_top]; bv_omega
@[simp] theorem State.push8If_other (s : State) (k : Stack) (c : Bool) (v : Byte) :
    (s.push8If k c v).other k = s.other k := by cases c <;> simp [State.push8If]
@[simp] theorem State.push16If_other (s : State) (k : Stack) (c : Bool) (v : Word) :
    (s.push16If k c v).other k = s.other k := by cases c <;> simp [State.push16If]
@[simp] theorem State.pushRegs_other (s : State) (k : Stack) (l : RegList) : (s.pushRegs k l).other k = s.other k := by
  simp [State.pushRegs]
/-- A push onto the S stack leaves U, which is the other pointer (10_state.md R24). -/
@[simp] theorem State.pushEntireState_u (s : State) : s.pushEntireState.u = s.u := State.pushRegs_other s .s entireState
@[simp] theorem State.stackFrame_u (s : State) (e : Exc) : (s.stackFrame e).u = s.u := by
  cases e with
  | firq => exact (State.push8_other ((s.push16 .s s.pc).putFlag .e false) .s _).trans (State.push16_other s .s s.pc)
  | nmi => exact State.pushEntireState_u _
  | irq => exact State.pushEntireState_u _
  | swi => exact State.pushEntireState_u _
  | swi2 => exact State.pushEntireState_u _
  | swi3 => exact State.pushEntireState_u _
@[simp] theorem State.enter_u (s : State) (e : Exc) (c : Bool) : (s.enter e c).u = s.u := by cases c <;> simp [State.enter]

/-! ### Launch and reset -/

theorem Memory.fill_unlisted (lo n : Nat) : Memory.fill (fun _ => unlistedByte) lo n = [] := by
  induction n generalizing lo with
  | zero => rfl
  | succ n ih => rw [Memory.fill, if_pos rfl, ih]

/-- The launch that supplies nothing starts in `State.reset`. -/
theorem Launch.empty_start : Launch.empty.start = State.reset := by
  have h : Launch.empty.initialMemory = [] := Memory.fill_unlisted 0 65536
  unfold Launch.start Launch.loaded
  rw [h]
  decide

end Sys2Proof.Machine
end

