-- ==== Sys2Proof/Laws/Flags.lean ====
section
/-! SUPPORT. The laws of the condition codes: each flag of each computation. -/

namespace Sys2Proof.Machine

theorem Flag.bit_lt (k : Flag) : k.bit < 8 := by cases k <;> decide

theorem Flag.bit_inj {k q : Flag} (h : k.bit = q.bit) : k = q := by
  cases k <;> cases q <;> first | rfl | exact absurd h (by decide)

@[simp] theorem getFlag_setFlag_same (k : Flag) (v : Bool) (cc : Byte) : getFlag (setFlag k v cc) k = v := by
  cases v <;> cases k <;> simp [getFlag, setFlag, Flag.bit]

theorem getFlag_setFlag_other (k q : Flag) (v : Bool) (cc : Byte) (h : q ≠ k) :
    getFlag (setFlag k v cc) q = getFlag cc q := by
  cases v <;> cases k <;> cases q <;> first | exact absurd rfl h | simp [getFlag, setFlag, Flag.bit]

/-- A flag after one flag is written. -/
@[simp] theorem getFlag_setFlag (k q : Flag) (v : Bool) (cc : Byte) :
    getFlag (setFlag k v cc) q = if q = k then v else getFlag cc q := by
  split
  · next h => rw [h, getFlag_setFlag_same]
  · next h => exact getFlag_setFlag_other k q v cc h

/-- Two values of CC with the same flags are equal. -/
theorem cc_ext {c d : Byte} (h : ∀ k, getFlag c k = getFlag d k) : c = d := by
  apply BitVec.eq_of_getLsbD_eq
  intro i hi
  have : i = 0 ∨ i = 1 ∨ i = 2 ∨ i = 3 ∨ i = 4 ∨ i = 5 ∨ i = 6 ∨ i = 7 := by omega
  rcases this with rfl | rfl | rfl | rfl | rfl | rfl | rfl | rfl
  · exact h .c
  · exact h .v
  · exact h .z
  · exact h .n
  · exact h .i
  · exact h .h
  · exact h .f
  · exact h .e

theorem State.flag_def (s : State) (k : Flag) : s.flag k = getFlag s.cc k := rfl

@[simp] theorem State.putFlag_flag (s : State) (k q : Flag) (v : Bool) :
    (s.putFlag k v).flag q = if q = k then v else s.flag q := getFlag_setFlag k q v s.cc

theorem State.flag_congr {s t : State} (h : t.cc = s.cc) (k : Flag) : t.flag k = s.flag k := by
  rw [State.flag_def, h, State.flag_def]

theorem getFlag_and (c m : Byte) (k : Flag) : getFlag (c &&& m) k = (getFlag c k && getFlag m k) :=
  BitVec.getLsbD_and

theorem getFlag_or (c m : Byte) (k : Flag) : getFlag (c ||| m) k = (getFlag c k || getFlag m k) :=
  BitVec.getLsbD_or

/-- Setting E is ORing bit 7. -/
theorem setFlag_e_true (c : Byte) : setFlag .e true c = c ||| 0x80 := rfl

/-- Clearing E is ANDing it away. -/
theorem setFlag_e_false (c : Byte) : setFlag .e false c = c &&& 0x7F := rfl

/-! ## N and Z -/

@[simp] theorem getFlag_setNZ8 (r cc : Byte) (q : Flag) :
    getFlag (setNZ8 r cc) q = if q = .n then r.msb else if q = .z then r == 0 else getFlag cc q := by
  simp [setNZ8]

@[simp] theorem getFlag_setNZ16 (r : Word) (cc : Byte) (q : Flag) :
    getFlag (setNZ16 r cc) q = if q = .n then r.msb else if q = .z then r == 0 else getFlag cc q := by
  simp [setNZ16]

@[simp] theorem getFlag_logicFlags8 (r cc : Byte) (q : Flag) :
    getFlag (logicFlags8 r cc) q =
      if q = .n then r.msb else if q = .z then r == 0 else if q = .v then false else getFlag cc q := by
  simp [logicFlags8]

@[simp] theorem getFlag_logicFlags16 (r : Word) (cc : Byte) (q : Flag) :
    getFlag (logicFlags16 r cc) q =
      if q = .n then r.msb else if q = .z then r == 0 else if q = .v then false else getFlag cc q := by
  simp [logicFlags16]

/-! ## Sums and differences -/

@[simp] theorem sumOut_r (t : Sum8) (cc : Byte) : (sumOut t cc).r = t.r := rfl
@[simp] theorem diffOut_r (t : Diff8) (cc : Byte) (hu : Bool) : (diffOut t cc hu).r = t.r := rfl
@[simp] theorem out16_r (t : Res16) (cc : Byte) : (out16 t cc).r = t.r := rfl

@[simp] theorem getFlag_sumOut (t : Sum8) (cc : Byte) (q : Flag) :
    getFlag (sumOut t cc).cc q = if q = .h then t.h else if q = .n then t.r.msb else if q = .z then t.r == 0
      else if q = .v then t.v else if q = .c then t.c else getFlag cc q := by
  simp [sumOut]

@[simp] theorem getFlag_diffOut (t : Diff8) (cc : Byte) (hu : Bool) (q : Flag) :
    getFlag (diffOut t cc hu).cc q = if q = .h then hu else if q = .n then t.r.msb else if q = .z then t.r == 0
      else if q = .v then t.v else if q = .c then t.c else getFlag cc q := by
  simp [diffOut]

@[simp] theorem getFlag_out16 (t : Res16) (cc : Byte) (q : Flag) :
    getFlag (out16 t cc).cc q = if q = .n then t.r.msb else if q = .z then t.r == 0
      else if q = .v then t.v else if q = .c then t.c else getFlag cc q := by
  simp [out16]

/-! ## Branch conditions -/

/-- A condition holds exactly when the table of 43_branches.md R295 says it is taken. -/
theorem Cond.holds_iff (k : Cond) (s : State) : k.holds s.cc = true ↔ k.Taken s := by
  cases k <;> simp [Cond.holds, Cond.Taken, State.flag]

/-! ## Byte order -/

@[simp] theorem word_hi_lo (v : Word) : word (hiByte v) (loByte v) = v := by
  apply BitVec.eq_of_getLsbD_eq
  intro i hi
  simp only [word, hiByte, loByte, BitVec.getLsbD_append, BitVec.getLsbD_extractLsb']
  split
  · simp [*]
  · next h =>
    have h1 : i - 8 < 8 := by omega
    have h2 : 8 + (i - 8) = i := by omega
    simp [h1, h2]

@[simp] theorem hiByte_word (h l : Byte) : hiByte (word h l) = h := by
  apply BitVec.eq_of_getLsbD_eq
  intro i hi
  simp only [word, hiByte, BitVec.getLsbD_extractLsb', hi, decide_true, Bool.true_and]
  rw [BitVec.getLsbD_append, if_neg (by omega), Nat.add_sub_cancel_left]

@[simp] theorem loByte_word (h l : Byte) : loByte (word h l) = l := by
  apply BitVec.eq_of_getLsbD_eq
  intro i hi
  simp only [word, loByte, BitVec.getLsbD_extractLsb', hi, decide_true, Bool.true_and, Nat.zero_add]
  rw [BitVec.getLsbD_append, if_pos hi]

@[simp] theorem loByte_zext8 (v : Byte) : loByte (zext8 v) = v := by
  apply BitVec.eq_of_getLsbD_eq
  intro i hi
  simp [zext8, loByte, hi]
  omega

theorem word_toNat (h l : Byte) : (word h l).toNat = h.toNat * 256 + l.toNat := by
  have := l.isLt
  simp only [word, BitVec.toNat_append]
  rw [← Nat.shiftLeft_add_eq_or_of_lt (by simpa using l.isLt)]
  omega

theorem hiByte_toNat (v : Word) : (hiByte v).toNat = v.toNat / 256 := by
  have := v.isLt
  simp [hiByte, Nat.shiftRight_eq_div_pow]
  omega

theorem loByte_toNat (v : Word) : (loByte v).toNat = v.toNat % 256 := by
  simp [loByte]

end Sys2Proof.Machine
end

