-- ==== Sys2Proof/Laws/Encoding.lean ====
section
/-! SUPPORT. The laws of the operand bytes: what the encoder writes for an indexed operand, a register pair and a register
list, the decoder reads back. -/

namespace Sys2Proof

theorem ptrOfCode_ptrCode (r : Ptr) : ptrOfCode (ptrCode r) = r := by cases r <;> rfl

theorem xregOfCode_xregCode (r : XReg) : xregOfCode (xregCode r) = some r := by cases r <;> rfl

/-- The register pair of an EXG or TFR postbyte (30_encoding.md R97). -/
theorem decodeRegisters_registersByte (r1 r2 : XReg) (h : r1.is8 = r2.is8) :
    decodeRegisters (registersByte r1 r2) = some (r1, r2) := by
  cases r1 <;> cases r2 <;> first | rfl | exact absurd h (by decide)

/-- The register list of a PSH or PUL postbyte (30_encoding.md R98). -/
theorem decodeRegisterList_registerListByte (l : RegList) : decodeRegisterList (registerListByte l) = l := by
  obtain ⟨a, b, c, d, e, f, g, h⟩ := l
  cases a <;> cases b <;> cases c <;> cases d <;> cases e <;> cases f <;> cases g <;> cases h <;> rfl

/-- An indexed operand is one to three bytes long (30_encoding.md R89). -/
theorem encodeIdx_length (ix : Idx) : 1 ≤ (encodeIdx ix).length ∧ (encodeIdx ix).length ≤ 3 := by
  cases ix <;> exact ⟨Nat.le_of_ble_eq_true rfl, Nat.le_of_ble_eq_true rfl⟩

/-- The indexed operand of a postbyte and the bytes after it (30_encoding.md R109). -/
theorem decodeIdx_encodeIdx (ix : Idx) (rest : List Byte) :
    decodeIdx ((encodeIdx ix ++ rest).getD 0 0) ((encodeIdx ix ++ rest).getD 1 0) ((encodeIdx ix ++ rest).getD 2 0) =
      some (ix, (encodeIdx ix).length - 1) := by
  cases ix with
  | off5 r n =>
    have h7 : (0#1 ++ ptrCode r ++ n).getLsbD 7 = false := by cases r <;> revert n <;> decide
    have hr : ptrOfCode ((0#1 ++ ptrCode r ++ n).extractLsb' 5 2) = r := by cases r <;> revert n <;> decide
    have hn : (0#1 ++ ptrCode r ++ n).extractLsb' 0 5 = n := by cases r <;> revert n <;> decide
    show decodeIdx (0#1 ++ ptrCode r ++ n) _ _ = _
    unfold decodeIdx
    simp only [h7, hr, hn]
    rfl
  | zero r i => cases r <;> cases i <;> simp [decodeIdx, encodeIdx, idxByte, ptrCode, ptrOfCode]
  | off8 r i n => cases r <;> cases i <;> simp [decodeIdx, encodeIdx, idxByte, ptrCode, ptrOfCode]
  | accA r i => cases r <;> cases i <;> simp [decodeIdx, encodeIdx, idxByte, ptrCode, ptrOfCode]
  | accB r i => cases r <;> cases i <;> simp [decodeIdx, encodeIdx, idxByte, ptrCode, ptrOfCode]
  | accD r i => cases r <;> cases i <;> simp [decodeIdx, encodeIdx, idxByte, ptrCode, ptrOfCode]
  | inc1 r => cases r <;> simp [decodeIdx, encodeIdx, idxByte, ptrCode, ptrOfCode]
  | inc2 r i => cases r <;> cases i <;> simp [decodeIdx, encodeIdx, idxByte, ptrCode, ptrOfCode]
  | dec1 r => cases r <;> simp [decodeIdx, encodeIdx, idxByte, ptrCode, ptrOfCode]
  | dec2 r i => cases r <;> cases i <;> simp [decodeIdx, encodeIdx, idxByte, ptrCode, ptrOfCode]
  | pcr8 i n => cases i <;> simp [decodeIdx, encodeIdx, idxByte, ptrCode]
  | off16 r i n => cases r <;> cases i <;> simp [decodeIdx, encodeIdx, idxByte, ptrCode, ptrOfCode]
  | pcr16 i n => cases i <;> simp [decodeIdx, encodeIdx, idxByte, ptrCode]
  | extInd n => simp [decodeIdx, encodeIdx]

/-! ## What a decoded instruction depends on -/

/-- The bytes after an indexed operand decide nothing of it. -/
theorem decodeIdx_prefix {pb o1 o2 p1 p2 : Byte} {ix : Idx} {k : Nat} (h : decodeIdx pb o1 o2 = some (ix, k))
    (h1 : 1 ≤ k → p1 = o1) (h2 : 2 ≤ k → p2 = o2) : decodeIdx pb p1 p2 = some (ix, k) := by
  unfold decodeIdx at h ⊢
  split at h
  · next h7 =>
    rw [if_pos h7]
    split at h <;> (try split at h) <;>
      simp only [Option.some.injEq, Prod.mk.injEq, reduceCtorEq, Option.ite_none_left_eq_some] at h
    all_goals first
      | (obtain ⟨hc, rfl, rfl⟩ := h; rw [if_neg hc])
      | (obtain ⟨rfl, rfl⟩ := h
         first
           | rfl
           | rw [if_pos ‹pb = _›, h1 (by decide), h2 (by decide)]
           | rw [h1 (by decide), h2 (by decide)]
           | rw [h1 (by decide)])
  · next h7 => rw [if_neg h7]; exact h

/-- The bytes after an instruction's operand decide nothing of it. -/
theorem decodeOperands_prefix {f : Format} {n len : Nat} {o0 o1 o2 p0 p1 p2 : Byte} {i : Instr}
    (h : decodeOperands f n o0 o1 o2 = .instr i len) (h0 : n + 1 ≤ len → p0 = o0) (h1 : n + 2 ≤ len → p1 = o1)
    (h2 : n + 3 ≤ len → p2 = o2) : n ≤ len ∧ decodeOperands f n p0 p1 p2 = .instr i len := by
  cases f with
  | indexed g =>
    simp only [decodeOperands] at h ⊢
    split at h
    · next ix k hd =>
      obtain ⟨rfl, rfl⟩ := Decoded.instr.inj h
      rw [h0 (by omega), decodeIdx_prefix hd (fun hk => h1 (by omega)) (fun hk => h2 (by omega))]
      exact ⟨by omega, rfl⟩
    · cases h
  | registers g =>
    simp only [decodeOperands] at h ⊢
    split at h
    · next r1 r2 hd =>
      obtain ⟨rfl, rfl⟩ := Decoded.instr.inj h
      rw [h0 (by omega), hd]
      exact ⟨by omega, rfl⟩
    · cases h
  | _ =>
    simp only [decodeOperands] at h ⊢
    obtain ⟨rfl, rfl⟩ := Decoded.instr.inj h
    simp_all

/-- What is decoded from a window is decoded from every window with the same first bytes. -/
theorem decode_prefix {v w : Window} {i : Instr} {n : Nat} (h : decode w = .instr i n) (h0 : 1 ≤ n → v.b0 = w.b0)
    (h1 : 2 ≤ n → v.b1 = w.b1) (h2 : 3 ≤ n → v.b2 = w.b2) (h3 : 4 ≤ n → v.b3 = w.b3) (h4 : 5 ≤ n → v.b4 = w.b4) :
    1 ≤ n ∧ decode v = .instr i n := by
  unfold decode at h
  split at h
  · next hp =>
    split at h
    · next f hf =>
      have hn : 2 ≤ n := (decodeOperands_prefix h (fun _ => rfl) (fun _ => rfl) (fun _ => rfl)).1
      refine ⟨by omega, ?_⟩
      unfold decode
      rw [h0 (by omega), h1 hn, if_pos hp, hf]
      exact (decodeOperands_prefix h h2 h3 h4).2
    · cases h
  · next hp =>
    split at h
    · next hq =>
      split at h
      · next f hf =>
        have hn : 2 ≤ n := (decodeOperands_prefix h (fun _ => rfl) (fun _ => rfl) (fun _ => rfl)).1
        refine ⟨by omega, ?_⟩
        unfold decode
        rw [h0 (by omega), h1 hn, if_neg hp, if_pos hq, hf]
        exact (decodeOperands_prefix h h2 h3 h4).2
      · cases h
    · next hq =>
      split at h
      · next f hf =>
        have hn : 1 ≤ n := (decodeOperands_prefix h (fun _ => rfl) (fun _ => rfl) (fun _ => rfl)).1
        refine ⟨hn, ?_⟩
        unfold decode
        rw [h0 hn, if_neg hp, if_neg hq, hf]
        exact (decodeOperands_prefix h h1 h2 h3).2
      · cases h

/-- An indexed operand has at most two bytes after its postbyte. -/
theorem decodeIdx_length {pb o1 o2 : Byte} {ix : Idx} {k : Nat} (h : decodeIdx pb o1 o2 = some (ix, k)) : k ≤ 2 := by
  unfold decodeIdx at h
  split at h
  · split at h <;> (try split at h) <;> 
      simp only [Option.some.injEq, Prod.mk.injEq, reduceCtorEq, Option.ite_none_left_eq_some] at h <;> omega
  · simp only [Option.some.injEq, Prod.mk.injEq] at h; omega

/-- An operand has at most three bytes. -/
theorem decodeOperands_length {f : Format} {n len : Nat} {o0 o1 o2 : Byte} {i : Instr}
    (h : decodeOperands f n o0 o1 o2 = .instr i len) : len ≤ n + 3 := by
  cases f with
  | indexed g =>
    simp only [decodeOperands] at h
    split at h
    · next ix k hd => have := decodeIdx_length hd; have := (Decoded.instr.inj h).2; omega
    · cases h
  | registers g =>
    simp only [decodeOperands] at h
    split at h
    · have := (Decoded.instr.inj h).2; omega
    · cases h
  | _ => have := (Decoded.instr.inj h).2; omega

/-- An instruction has at most five bytes (30_encoding.md R81). -/
theorem decode_length {w : Window} {i : Instr} {n : Nat} (h : decode w = .instr i n) : n ≤ 5 := by
  unfold decode at h
  split at h <;> (try split at h) <;> (try split at h) <;>
    first | cases h | (have := decodeOperands_length h; omega)

end Sys2Proof
end

