-- ==== Sys2Proof/Laws/Memory.lean ====
section
/-! SUPPORT. The laws of memory and of the bus: read after write, the canonical form, and what a sequence of accesses does
(`Bus.Run`), from which every frame, store and trace follows. -/

namespace Sys2Proof.Machine

/-! ## The list -/

theorem Memory.read_write_other (m : Memory) (a b : Nat) (v : Byte) (h : b ≠ a) : (m.write a v).read b = m.read b := by
  induction m with
  | nil =>
    unfold Memory.write
    split
    · rfl
    · simp [Memory.read, Ne.symm h]
  | cons p rest ih =>
    obtain ⟨k, w⟩ := p
    unfold Memory.write
    split_ifs with h1 h2 h3 h4
    · rfl
    · simp [Memory.read, Ne.symm h]
    · subst h3; simp [Memory.read, Ne.symm h]
    · subst h3; simp [Memory.read, Ne.symm h]
    · simp [Memory.read, ih]

/-- A canonical list says nothing of an address below its bound. -/
theorem Memory.read_below (m : Memory) (lo a : Nat) (hw : Memory.wfFrom lo m = true) (h : a < lo) :
    m.read a = unlistedByte := by
  induction m generalizing lo with
  | nil => rfl
  | cons p rest ih =>
    obtain ⟨k, w⟩ := p
    simp only [Memory.wfFrom, Bool.and_eq_true, decide_eq_true_eq] at hw
    rw [Memory.read, if_neg (by omega), ih (k + 1) hw.2 (by omega)]

theorem Memory.read_write_same (m : Memory) (lo a : Nat) (v : Byte) (hw : Memory.wfFrom lo m = true) :
    (m.write a v).read a = v := by
  induction m generalizing lo with
  | nil =>
    unfold Memory.write
    split
    · next h => exact h.symm
    · simp [Memory.read]
  | cons p rest ih =>
    obtain ⟨k, w⟩ := p
    simp only [Memory.wfFrom, Bool.and_eq_true, decide_eq_true_eq] at hw
    unfold Memory.write
    split_ifs with h1 h2 h3 h4
    · rw [h2, Memory.read, if_neg (by omega)]; exact Memory.read_below rest (k + 1) a hw.2 (by omega)
    · simp [Memory.read]
    · rw [h4]; exact Memory.read_below rest (k + 1) a hw.2 (by omega)
    · simp [Memory.read]
    · rw [Memory.read, if_neg (fun e => h3 e.symm), ih (k + 1) hw.2]

theorem Memory.wfFrom_mono (m : Memory) (lo lo' : Nat) (h : lo' ≤ lo) (hw : Memory.wfFrom lo m = true) :
    Memory.wfFrom lo' m = true := by
  cases m with
  | nil => rfl
  | cons p rest =>
    obtain ⟨k, w⟩ := p
    simp only [Memory.wfFrom, Bool.and_eq_true, decide_eq_true_eq] at hw ⊢
    exact ⟨⟨⟨by omega, hw.1.1.2⟩, hw.1.2⟩, hw.2⟩

theorem Memory.wfFrom_write (m : Memory) (lo a : Nat) (v : Byte) (hw : Memory.wfFrom lo m = true) (hl : lo ≤ a)
    (ha : a < 65536) : Memory.wfFrom lo (m.write a v) = true := by
  induction m generalizing lo with
  | nil =>
    unfold Memory.write
    split
    · rfl
    · next h => simp [Memory.wfFrom, hl, ha, h]
  | cons p rest ih =>
    obtain ⟨k, w⟩ := p
    have hw' := hw
    simp only [Memory.wfFrom, Bool.and_eq_true, decide_eq_true_eq] at hw
    unfold Memory.write
    split_ifs with h1 h2 h3 h4
    · exact hw'
    · simp only [Memory.wfFrom, Bool.and_eq_true, decide_eq_true_eq]
      exact ⟨⟨⟨hl, ha⟩, by simpa using h2⟩, ⟨⟨by omega, hw.1.1.2⟩, hw.1.2⟩, hw.2⟩
    · exact Memory.wfFrom_mono rest (k + 1) lo (by omega) hw.2
    · simp only [Memory.wfFrom, Bool.and_eq_true, decide_eq_true_eq]
      exact ⟨⟨⟨hl, ha⟩, by simpa using h4⟩, h3 ▸ hw.2⟩
    · simp only [Memory.wfFrom, Bool.and_eq_true, decide_eq_true_eq]
      exact ⟨hw.1, ih (k + 1) hw.2 (by omega)⟩

/-- Every write keeps the canonical form. -/
theorem Memory.wf_write (m : Memory) (a : Word) (v : Byte) (h : m.wf = true) : Memory.wf (m.write a.toNat v) = true :=
  Memory.wfFrom_write m 0 a.toNat v h (by omega) a.isLt

theorem Memory.wf_fill (f : Nat → Byte) (lo n : Nat) (h : lo + n ≤ 65536) :
    Memory.wfFrom lo (Memory.fill f lo n) = true := by
  induction n generalizing lo with
  | zero => rfl
  | succ n ih =>
    unfold Memory.fill
    split
    · exact Memory.wfFrom_mono _ (lo + 1) lo (by omega) (ih (lo + 1) (by omega))
    · next hv =>
      simp only [Memory.wfFrom, Bool.and_eq_true, decide_eq_true_eq]
      exact ⟨⟨⟨Nat.le_refl lo, by omega⟩, by simpa using hv⟩, ih (lo + 1) (by omega)⟩

theorem Memory.read_fill (f : Nat → Byte) (lo n a : Nat) (hn : lo + n ≤ 65536) (h : lo ≤ a) (h' : a < lo + n) :
    (Memory.fill f lo n).read a = f a := by
  induction n generalizing lo with
  | zero => omega
  | succ n ih =>
    unfold Memory.fill
    by_cases e : a = lo
    · subst e
      split
      · next hv => rw [hv]; exact Memory.read_below _ (a + 1) a (Memory.wf_fill f (a + 1) n (by omega)) (by omega)
      · simp [Memory.read]
    · split
      · exact ih (lo + 1) (by omega) (by omega) (by omega)
      · rw [Memory.read, if_neg (fun e' => e e'.symm)]
        exact ih (lo + 1) (by omega) (by omega) (by omega)

/-- A launch's memory is canonical. -/
theorem Launch.initialMemory_wf (l : Launch) : l.initialMemory.wf = true := Memory.wf_fill _ 0 65536 (by omega)

/-- A launch's memory holds the initial byte of every address. -/
theorem Launch.initialMemory_read (l : Launch) (a : Word) : l.initialMemory.read a.toNat = l.initialByte a := by
  have h := Memory.read_fill (fun a => l.initialByte (BitVec.ofNat 16 a)) 0 65536 a.toNat (by omega) (by omega)
    (by have := a.isLt; omega)
  simpa [Launch.initialMemory] using h

/-- Memory after reset is canonical. -/
theorem State.reset_wf : State.reset.mem.wf = true := rfl

/-! ## One byte stored -/

theorem Bus.store_mem (b : Bus) (a : Word) (v : Byte) :
    (b.store a v).mem = if kindAt b.platform.memMap a = .ram then b.mem.write a.toNat v else b.mem := by
  unfold Bus.store
  split <;> simp_all

theorem Bus.store_read_other (b : Bus) (a w : Word) (v : Byte) (h : w ≠ a) :
    (b.store a v).mem.read w.toNat = b.mem.read w.toNat := by
  rw [Bus.store_mem]
  split
  · exact Memory.read_write_other _ _ _ _ (fun e => h (BitVec.eq_of_toNat_eq e))
  · rfl

theorem Bus.store_read_nonRam (b : Bus) (a w : Word) (v : Byte) (h : kindAt b.platform.memMap w ≠ .ram) :
    (b.store a v).mem.read w.toNat = b.mem.read w.toNat := by
  by_cases e : w = a
  · rw [Bus.store_mem, if_neg (e ▸ h)]
  · exact Bus.store_read_other b a w v e

theorem Bus.store_read_same (b : Bus) (a : Word) (v : Byte) (hw : b.mem.wf = true)
    (h : kindAt b.platform.memMap a = .ram) : (b.store a v).mem.read a.toNat = v := by
  rw [Bus.store_mem, if_pos h]
  exact Memory.read_write_same _ 0 _ _ hw

theorem Bus.store_wf (b : Bus) (a : Word) (v : Byte) (h : b.mem.wf = true) : (b.store a v).mem.wf = true := by
  rw [Bus.store_mem]
  split
  · exact Memory.wf_write _ _ _ h
  · exact h

/-! ## The devices -/

/-- An access elsewhere leaves the devices alone. -/
theorem Platform.heldAfter_other (p : Platform) (held : Nat) (x : Access) (h : kindAt p.memMap x.addr ≠ .device) :
    p.heldAfter held x = held := by
  unfold Platform.heldAfter
  split <;> simp_all

/-- An access to a device has the side effect that its function says. -/
theorem Platform.heldAfter_device (p : Platform) (held : Nat) (x : Access) (d : Device)
    (h : kindAt p.memMap x.addr = .device) (hd : p.device = some d) :
    p.heldAfter held x =
      (if isWrite x.kind then d.afterWrite else d.afterRead).eval held x.addr.toNat x.data.toNat := by
  unfold Platform.heldAfter
  rw [h, hd]

/-! ## What other bus masters write -/

theorem Bus.othersWrite_wf (b : Bus) (l : List (Word × Byte)) (h : b.mem.wf = true) : (b.othersWrite l).mem.wf = true := by
  induction l generalizing b with
  | nil => exact h
  | cons p l ih => exact ih _ (Bus.store_wf b p.1 p.2 h)

theorem Bus.othersWrite_read_other (b : Bus) (l : List (Word × Byte)) (w : Word)
    (h : w ∉ l.map Prod.fst ∨ kindAt b.platform.memMap w ≠ .ram) :
    (b.othersWrite l).mem.read w.toNat = b.mem.read w.toNat := by
  induction l generalizing b with
  | nil => rfl
  | cons p l ih =>
    rw [show b.othersWrite (p :: l) = (b.otherWrite p.1 p.2).othersWrite l from rfl, ih, Bus.otherWrite_mem]
    · rcases h with h | h
      · exact Bus.store_read_other b p.1 w p.2 (fun e => h (by simp [e]))
      · exact Bus.store_read_nonRam b p.1 w p.2 h
    · rcases h with h | h
      · exact Or.inl (fun e => h (List.mem_cons_of_mem _ e))
      · exact Or.inr (by simpa using h)

theorem Bus.othersWrite_append (b : Bus) (l m : List (Word × Byte)) :
    b.othersWrite (l ++ m) = (b.othersWrite l).othersWrite m := by
  induction l generalizing b with
  | nil => rfl
  | cons p l ih => exact ih _

/-- The last write to an address of RAM stands. -/
theorem Bus.othersWrite_read_last (b : Bus) (l : List (Word × Byte)) (a : Word) (v : Byte) (hw : b.mem.wf = true)
    (h : kindAt b.platform.memMap a = .ram) : (b.othersWrite (l ++ [(a, v)])).mem.read a.toNat = v := by
  rw [Bus.othersWrite_append]
  exact Bus.store_read_same _ a v (Bus.othersWrite_wf b l hw) (by simpa using h)

/-- The devices have the side effects of the writes. -/
theorem Bus.othersWrite_held (b : Bus) (l : List (Word × Byte)) :
    (b.othersWrite l).held = l.foldl (fun held w => b.platform.heldAfter held ⟨.store, w.1, w.2, false⟩) b.held := by
  induction l generalizing b with
  | nil => rfl
  | cons p l ih =>
    rw [show b.othersWrite (p :: l) = (b.otherWrite p.1 p.2).othersWrite l from rfl, ih, Bus.otherWrite_held,
      Bus.otherWrite_platform]
    rfl

/-- The devices hold what they held if no write reaches one. -/
theorem Bus.othersWrite_held_other (b : Bus) (l : List (Word × Byte))
    (h : ∀ w ∈ l, kindAt b.platform.memMap w.1 ≠ .device) : (b.othersWrite l).held = b.held := by
  rw [Bus.othersWrite_held]
  induction l with
  | nil => rfl
  | cons p l ih =>
    rw [List.foldl_cons, Platform.heldAfter_other _ _ _ (h p List.mem_cons_self)]
    exact ih fun w hw => h w (List.mem_cons_of_mem _ hw)

theorem Platform.admits_of_busy (p : Platform) (busy : Bool) (h : p.admits busy = true) : p.admits false = true := by
  unfold Platform.admits at *
  cases busy
  · exact h
  · simp only [Bool.or_eq_true, Bool.and_eq_true] at h ⊢
    exact h.imp id fun h => ⟨h.1, by simp⟩

/-- No other master changes an address during the rest of this step. -/
def Bus.Undisturbed (b : Bus) (a : Word) : Prop :=
  b.platform.admits false = false ∨ kindAt b.platform.memMap a ≠ .ram ∨ ∀ c ∈ b.cycles, a ∉ c.writes.map Prod.fst

theorem Bus.shared_wf (b : Bus) (h : b.mem.wf = true) : b.shared.mem.wf = true := by
  unfold Bus.shared
  split
  · exact Bus.othersWrite_wf b _ h
  · exact h

theorem Bus.shared_read (b : Bus) (w : Word) (h : b.Undisturbed w) : b.shared.mem.read w.toNat = b.mem.read w.toNat := by
  unfold Bus.shared
  split
  · next hb =>
    refine Bus.othersWrite_read_other b _ w ?_
    rcases h with h | h | h
    · rw [Platform.admits_of_busy _ _ hb] at h; exact absurd h (by decide)
    · exact Or.inr h
    · left
      unfold Bus.cycle
      cases hc : b.cycles with
      | nil => simp [Cycle.quiet]
      | cons c rest => exact h c (by simp [hc])
  · rfl

/-- No other master writes to a device during the rest of this step. -/
def Bus.DevicesUndisturbed (b : Bus) : Prop :=
  b.platform.admits false = false ∨ ∀ c ∈ b.cycles, ∀ w ∈ c.writes, kindAt b.platform.memMap w.1 ≠ .device

theorem Bus.shared_held (b : Bus) (h : b.DevicesUndisturbed) : b.shared.held = b.held := by
  unfold Bus.shared
  split
  · next hb =>
    refine Bus.othersWrite_held_other b _ ?_
    rcases h with h | h
    · rw [Platform.admits_of_busy _ _ hb] at h; exact absurd h (by decide)
    · unfold Bus.cycle
      cases hc : b.cycles with
      | nil => simp [Cycle.quiet]
      | cons c rest => exact h c (by simp [hc])
  · rfl

theorem Bus.DevicesUndisturbed.drop {b c : Bus} (h : b.DevicesUndisturbed) (n : Nat) (hp : c.platform = b.platform)
    (hc : c.cycles = b.cycles.drop n) : c.DevicesUndisturbed := by
  unfold Bus.DevicesUndisturbed at *
  rw [hp, hc]
  exact h.imp id fun h x hx => h x (List.mem_of_mem_drop hx)

theorem Bus.Undisturbed.drop {b c : Bus} {w : Word} (h : b.Undisturbed w) (n : Nat) (hp : c.platform = b.platform)
    (hc : c.cycles = b.cycles.drop n) : c.Undisturbed w := by
  rcases h with h | h | h
  · exact Or.inl (by rw [hp]; exact h)
  · exact Or.inr (Or.inl (by rw [hp]; exact h))
  · exact Or.inr (Or.inr (fun x hx => h x (List.mem_of_mem_drop (hc ▸ hx))))

/-- A read of a device finds the byte that the world outside gives, or the one that the devices drive. -/
theorem Bus.read_of_device (b : Bus) (a : Word) (h : kindAt b.platform.memMap a = .device) :
    b.read a = b.cycle.data.getD (b.shared.driven a) := by
  unfold Bus.read; rw [h]

/-- The byte that a device function drives. -/
theorem Bus.driven_of_device (b : Bus) (a : Word) (d : Device) (h : b.platform.device = some d) :
    b.driven a = BitVec.ofNat 8 (d.drives.eval b.held a.toNat 0) := by
  unfold Bus.driven; rw [h]

/-- A read where memory decides finds what memory holds. -/
theorem Bus.read_of_mem (b : Bus) (a : Word) (h : kindAt b.platform.memMap a = .ram ∨ kindAt b.platform.memMap a = .rom)
    (hu : b.Undisturbed a) : b.read a = b.mem.read a.toNat := by
  unfold Bus.read
  rcases h with h | h <;> rw [h] <;> exact Bus.shared_read b a hu

/-! ## A sequence of accesses -/

/-- `c` is the bus after the accesses `accs` of the MPU, latest first, from `b`; `ws` are the bytes written among them, latest
first. -/
inductive Bus.Run (b : Bus) : List Access → List (Word × Byte) → Bus → Prop
  | nil : Bus.Run b [] [] b
  | read {accs : List Access} {ws : List (Word × Byte)} {c : Bus} (h : Bus.Run b accs ws c) (k : AccessKind) (busy : Bool)
      (a : Word) : Bus.Run b (⟨k, a, c.read a, busy⟩ :: accs) ws (c.didRead k busy a)
  | write {accs : List Access} {ws : List (Word × Byte)} {c : Bus} (h : Bus.Run b accs ws c) (k : AccessKind) (busy : Bool)
      (a : Word) (v : Byte) : Bus.Run b (⟨k, a, v, busy⟩ :: accs) ((a, v) :: ws) (c.write k busy a v)

theorem Bus.Run.trans {b c d : Bus} {accs accs' : List Access} {ws ws' : List (Word × Byte)} (h : Bus.Run b accs ws c)
    (h' : Bus.Run c accs' ws' d) : Bus.Run b (accs' ++ accs) (ws' ++ ws) d := by
  induction h' with
  | nil => exact h
  | read _ k busy a ih => exact ih.read k busy a
  | write _ k busy a v ih => exact ih.write k busy a v

theorem Bus.Run.platform {b c : Bus} {accs : List Access} {ws : List (Word × Byte)} (h : Bus.Run b accs ws c) :
    c.platform = b.platform := by
  induction h with
  | nil => rfl
  | read _ k busy a ih => rw [Bus.didRead_platform, ih]
  | write _ k busy a v ih => rw [Bus.write_platform, ih]

theorem Bus.Run.trace {b c : Bus} {accs : List Access} {ws : List (Word × Byte)} (h : Bus.Run b accs ws c) :
    c.trace = accs ++ b.trace := by
  induction h with
  | nil => rfl
  | read _ k busy a ih => rw [Bus.didRead_trace, ih]; rfl
  | write _ k busy a v ih => rw [Bus.write_trace, ih]; rfl

theorem Bus.Run.cycles {b c : Bus} {accs : List Access} {ws : List (Word × Byte)} (h : Bus.Run b accs ws c) :
    c.cycles = b.cycles.drop accs.length := by
  induction h with
  | nil => rfl
  | read _ k busy a ih => rw [Bus.didRead_cycles, ih, List.tail_drop]; rfl
  | write _ k busy a v ih => rw [Bus.write_cycles, ih, List.tail_drop]; rfl

theorem Bus.Run.wf {b c : Bus} {accs : List Access} {ws : List (Word × Byte)} (h : Bus.Run b accs ws c)
    (hw : b.mem.wf = true) : c.mem.wf = true := by
  induction h with
  | nil => exact hw
  | read _ k busy a ih => exact Bus.shared_wf _ ih
  | write _ k busy a v ih => exact Bus.store_wf _ a v (Bus.shared_wf _ ih)

theorem Bus.Run.undisturbed {b c : Bus} {accs : List Access} {ws : List (Word × Byte)} (h : Bus.Run b accs ws c) {w : Word}
    (hu : b.Undisturbed w) : c.Undisturbed w := hu.drop accs.length h.platform h.cycles

/-- The devices have the side effects of the accesses. -/
theorem Bus.Run.held {b c : Bus} {accs : List Access} {ws : List (Word × Byte)} (h : Bus.Run b accs ws c)
    (hu : b.DevicesUndisturbed) : c.held = accs.foldr (fun x held => b.platform.heldAfter held x) b.held := by
  induction h with
  | nil => rfl
  | read h k busy a ih =>
    rw [Bus.didRead_held, Bus.shared_held _ (hu.drop _ h.platform h.cycles), ih, h.platform]; rfl
  | write h k busy a v ih =>
    rw [Bus.write_held, Bus.shared_held _ (hu.drop _ h.platform h.cycles), ih, h.platform]; rfl

/-- BUSY after some accesses is that of the last. -/
theorem Bus.Run.busy {b c : Bus} {x : Access} {accs : List Access} {ws : List (Word × Byte)}
    (h : Bus.Run b (x :: accs) ws c) : c.busy = x.busy := by
  cases h <;> rfl

/-- No access changes what is held outside RAM. -/
theorem Bus.Run.read_nonRam {b c : Bus} {accs : List Access} {ws : List (Word × Byte)} (h : Bus.Run b accs ws c) {w : Word}
    (hk : kindAt b.platform.memMap w ≠ .ram) : c.mem.read w.toNat = b.mem.read w.toNat := by
  induction h with
  | nil => rfl
  | read h k busy a ih => exact (Bus.shared_read _ w (h.undisturbed (Or.inr (Or.inl hk)))).trans ih
  | write h k busy a v ih =>
    refine (Bus.store_read_nonRam _ a w v ?_).trans ((Bus.shared_read _ w (h.undisturbed (Or.inr (Or.inl hk)))).trans ih)
    rw [Bus.shared_platform, h.platform]; exact hk

/-- An address that nothing is written to holds what it held. -/
theorem Bus.Run.read_other {b c : Bus} {accs : List Access} {ws : List (Word × Byte)} (h : Bus.Run b accs ws c) {w : Word}
    (hu : b.Undisturbed w) (hn : w ∉ ws.map Prod.fst) : c.mem.read w.toNat = b.mem.read w.toNat := by
  induction h with
  | nil => rfl
  | read h k busy a ih => exact (Bus.shared_read _ w (h.undisturbed hu)).trans (ih hn)
  | write h k busy a v ih =>
    simp only [List.map_cons, List.mem_cons, not_or] at hn
    exact (Bus.store_read_other _ a w v hn.1).trans ((Bus.shared_read _ w (h.undisturbed hu)).trans (ih hn.2))

/-- An address of RAM that something is written to holds the last byte written. -/
theorem Bus.Run.read_written {b c : Bus} {accs : List Access} {ws : List (Word × Byte)} (h : Bus.Run b accs ws c) {w : Word}
    {v : Byte} (hu : b.Undisturbed w) (hw : b.mem.wf = true) (hk : kindAt b.platform.memMap w = .ram)
    (hv : ws.lookup w = some v) : c.mem.read w.toNat = v := by
  induction h with
  | nil => simp at hv
  | read h k busy a ih => exact (Bus.shared_read _ w (h.undisturbed hu)).trans (ih hv)
  | write h k busy a x ih =>
    rw [List.lookup_cons] at hv
    by_cases e : w = a
    · subst e
      simp only [BEq.rfl, Option.some.injEq] at hv
      subst hv
      refine Bus.store_read_same _ w x (Bus.shared_wf _ (h.wf hw)) ?_
      rw [Bus.shared_platform, h.platform]; exact hk
    · rw [beq_false_of_ne e] at hv
      exact (Bus.store_read_other _ a w x e).trans ((Bus.shared_read _ w (h.undisturbed hu)).trans (ih hv))

/-! ## The accesses between two states -/

/-- `t`'s bus is that of `s` after the accesses `accs`, with the bytes `ws` written among them. -/
def State.Run (s t : State) (accs : List Access) (ws : List (Word × Byte)) : Prop := Bus.Run s.bus accs ws t.bus

theorem State.Run.refl {s t : State} (h : t.bus = s.bus) : s.Run t [] [] := by
  unfold State.Run; rw [h]; exact .nil

theorem State.Run.didRead {s t u : State} {accs : List Access} {ws : List (Word × Byte)} (h : s.Run t accs ws)
    (k : AccessKind) (busy : Bool) (a : Word) (hu : u.bus = t.bus.didRead k busy a) :
    s.Run u (⟨k, a, t.readByte a, busy⟩ :: accs) ws := by
  unfold State.Run; rw [hu]; exact Bus.Run.read h k busy a

theorem State.Run.write {s t u : State} {accs : List Access} {ws : List (Word × Byte)} (h : s.Run t accs ws)
    (k : AccessKind) (busy : Bool) (a : Word) (v : Byte) (hu : u.bus = t.bus.write k busy a v) :
    s.Run u (⟨k, a, v, busy⟩ :: accs) ((a, v) :: ws) := by
  unfold State.Run; rw [hu]; exact Bus.Run.write h k busy a v

/-- Only the buses count. -/
theorem State.Run.congr {s s' t t' : State} {accs : List Access} {ws : List (Word × Byte)} (h : s.Run t accs ws)
    (hs : s'.bus = s.bus) (ht : t'.bus = t.bus) : s'.Run t' accs ws := by
  unfold State.Run; rw [hs, ht]; exact h

theorem State.Run.trans {s t u : State} {accs accs' : List Access} {ws ws' : List (Word × Byte)} (h : s.Run t accs ws)
    (h' : t.Run u accs' ws') : s.Run u (accs' ++ accs) (ws' ++ ws) := Bus.Run.trans h h'

theorem State.Run.makes {s t : State} {accs : List Access} {ws : List (Word × Byte)} (h : s.Run t accs ws) :
    Makes s t accs := ⟨Bus.Run.trace h, Bus.Run.cycles h, Bus.Run.held h⟩

theorem State.Run.wf {s t : State} {accs : List Access} {ws : List (Word × Byte)} (h : s.Run t accs ws)
    (hw : s.mem.wf = true) : t.mem.wf = true := Bus.Run.wf h hw

theorem State.Run.undisturbed {s t : State} {accs : List Access} {ws : List (Word × Byte)} (h : s.Run t accs ws) {w : Word}
    (hu : Undisturbed s w) : Undisturbed t w := Bus.Run.undisturbed h hu

/-- BUSY is low after accesses of which the last has it low. -/
theorem State.Run.busy {s t : State} {accs : List Access} {ws : List (Word × Byte)} (h : s.Run t accs ws)
    (hs : s.bus.busy = false) (hl : ∀ x, accs.head? = some x → x.busy = false) : t.bus.busy = false := by
  cases accs with
  | nil =>
    have e := Bus.Run.trace h
    unfold Bus.busy at *
    rw [e]; exact hs
  | cons x rest => exact (Bus.Run.busy h).trans (hl x rfl)

/-- Accesses that write nothing keep memory. -/
theorem State.Run.keepsMemory {s t : State} {accs : List Access} (h : s.Run t accs []) : KeepsMemory s t :=
  fun _ hu => Bus.Run.read_other h hu (by simp)

/-- What accesses store, when their writes are the bytes `bs` at `a` and up. -/
theorem State.Run.stores {s t : State} {accs : List Access} {ws : List (Word × Byte)} (h : s.Run t accs ws) (a : Word)
    (bs : List Byte) (h1 : ∀ w, (∀ i, i < bs.length → w ≠ above a i) → w ∉ ws.map Prod.fst)
    (h2 : ∀ i v, bs[i]? = some v → ws.lookup (above a i) = some v) : Stores s t a bs :=
  ⟨fun w hu hw => Bus.Run.read_other h hu (h1 w hw), fun _ hk => Bus.Run.read_nonRam h hk,
    fun hw i v hv hk hu => Bus.Run.read_written h hu hw hk (h2 i v hv)⟩

/-- A byte read where memory decides is memory's. -/
theorem State.readByte_of_settled {s : State} {a : Word} (h : Settled s a) : s.readByte a = s.mem.read a.toNat :=
  Bus.read_of_mem s.bus a h.1 h.2

theorem State.Run.settled {s t : State} {accs : List Access} {ws : List (Word × Byte)} (h : s.Run t accs ws) {w : Word}
    (hs : Settled s w) : Settled t w := ⟨by rw [State.memMap, Bus.Run.platform h]; exact hs.1, h.undisturbed hs.2⟩

/-- A byte read after some accesses, of which none wrote there, is what memory held before them. -/
theorem State.Run.readByte {s t : State} {accs : List Access} {ws : List (Word × Byte)} (h : s.Run t accs ws) {w : Word}
    (hs : Settled s w) (hn : w ∉ ws.map Prod.fst) : t.readByte w = s.mem.read w.toNat :=
  (State.readByte_of_settled (h.settled hs)).trans (Bus.Run.read_other h hs.2 hn)

/-! ## Addresses -/

/-- Addresses less than 65536 bytes apart differ. -/
theorem above_ne (a : Word) (i : Nat) (h0 : i ≠ 0) (h : i < 65536) : above a i ≠ a := by
  unfold above; bv_omega

theorem above_zero (a : Word) : above a 0 = a := by simp [above]

theorem above_succ (a : Word) (i : Nat) : above (a + 1) i = above a (i + 1) := by
  unfold above
  rw [BitVec.add_assoc]
  congr 1
  apply BitVec.eq_of_toNat_eq
  simp [Nat.add_comm]

theorem above_sub (a : Word) (n : Nat) : above (a - BitVec.ofNat 16 n) n = a := by
  unfold above; bv_omega

theorem above_above (a : Word) (i j : Nat) : above (above a i) j = above a (i + j) := by
  unfold above
  rw [BitVec.add_assoc, ← BitVec.ofNat_add]

theorem above_one (a : Word) : above a 1 = a + 1 := rfl

/-! ## Bytes at ascending addresses -/

/-- The bytes `bs` with their addresses, `a` and up. -/
def placedAt (a : Word) : List Byte → List (Word × Byte)
  | [] => []
  | v :: rest => (a, v) :: placedAt (a + 1) rest

theorem placedAt_mem (a : Word) (bs : List Byte) (w : Word) (h : ∀ i, i < bs.length → w ≠ above a i) :
    w ∉ (placedAt a bs).map Prod.fst := by
  induction bs generalizing a with
  | nil => simp [placedAt]
  | cons v rest ih =>
    simp only [placedAt, List.map_cons, List.mem_cons, not_or]
    refine ⟨by simpa [above_zero] using h 0 (by simp), ih (a + 1) (fun i hi => ?_)⟩
    rw [above_succ]
    exact h (i + 1) (by simpa using hi)

theorem placedAt_lookup (a : Word) (bs : List Byte) (hl : bs.length ≤ 65536) (i : Nat) (v : Byte) (h : bs[i]? = some v) :
    (placedAt a bs).lookup (above a i) = some v := by
  induction bs generalizing a i with
  | nil => simp at h
  | cons x rest ih =>
    have hi : i < rest.length + 1 := by simpa using (List.getElem?_eq_some_iff.mp h).1
    simp only [List.length_cons] at hl
    rw [placedAt, List.lookup_cons]
    cases i with
    | zero =>
      rw [above_zero, BEq.rfl]
      simpa using h
    | succ j =>
      rw [beq_false_of_ne (above_ne a (j + 1) (by omega) (by omega)), ← above_succ]
      exact ih (a + 1) (by omega) j (by simpa using h)

/-- Accesses whose writes are the bytes `bs` at `a` and up store them. -/
theorem State.Run.stores_placed {s t : State} {accs : List Access} {a : Word} {bs : List Byte}
    (h : s.Run t accs (placedAt a bs)) (hl : bs.length ≤ 65536) : Stores s t a bs :=
  h.stores a bs (fun w hw => placedAt_mem a bs w hw) (fun i v hv => placedAt_lookup a bs hl i v hv)

/-- A single byte. -/
theorem State.Run.stores_single {s t : State} {accs : List Access} {a : Word} {v : Byte} (h : s.Run t accs [(a, v)]) :
    Stores s t a [v] := State.Run.stores_placed (bs := [v]) h (by simp)

/-- A word, its high byte written first. -/
theorem State.Run.stores_word {s t : State} {accs : List Access} {a v : Word}
    (h : s.Run t accs [(a + 1, loByte v), (a, hiByte v)]) : Stores s t a (wordBytes v) := by
  have hne : a ≠ a + 1 := by bv_omega
  refine h.stores a (wordBytes v) (fun w hw => ?_) (fun i b hb => ?_)
  · have h0 : w ≠ a := by simpa [above_zero] using hw 0 (by simp [wordBytes])
    have h1 : w ≠ a + 1 := hw 1 (by simp [wordBytes])
    simp only [List.map_cons, List.map_nil, List.mem_cons, List.not_mem_nil, or_false, not_or]
    exact ⟨h1, h0⟩
  · match i with
    | 0 =>
      simp only [wordBytes, List.getElem?_cons_zero, Option.some.injEq] at hb
      subst hb
      rw [above_zero, List.lookup_cons, beq_false_of_ne hne, List.lookup_cons, BEq.rfl]
    | 1 =>
      simp only [wordBytes, List.getElem?_cons_succ, List.getElem?_cons_zero, Option.some.injEq] at hb
      subst hb
      rw [above_one, List.lookup_cons, BEq.rfl]
    | n + 2 => simp [wordBytes] at hb

/-! ## Reads and writes of words, and the jump through a vector -/

theorem State.didRead_run (s : State) (k : AccessKind) (busy : Bool) (a : Word) :
    s.Run (s.didRead k busy a) [⟨k, a, s.readByte a, busy⟩] [] := (State.Run.refl rfl).didRead k busy a rfl

theorem State.write_run (s : State) (k : AccessKind) (busy : Bool) (a : Word) (v : Byte) :
    s.Run (s.write k busy a v) [⟨k, a, v, busy⟩] [(a, v)] := (State.Run.refl rfl).write k busy a v rfl

/-- The two bytes of a word read, the high one first. -/
theorem State.didReadWord_run (s : State) (k : AccessKind) (a : Word) :
    s.Run (s.didReadWord k a)
      [⟨k, a + 1, (s.didRead k true a).readByte (a + 1), false⟩, ⟨k, a, s.readByte a, true⟩] [] :=
  (s.didRead_run k true a).didRead k false (a + 1) rfl

theorem State.writeWord_run (s : State) (k : AccessKind) (a v : Word) :
    s.Run (s.writeWord k a v) [⟨k, a + 1, loByte v, false⟩, ⟨k, a, hiByte v, true⟩] [(a + 1, loByte v), (a, hiByte v)] :=
  (s.write_run k true a (hiByte v)).write k false (a + 1) (loByte v) rfl

theorem Reads.single {s : State} (a : Word) : Reads s a [s.readByte a] := by
  intro i v hv hs
  match i with
  | 0 =>
    simp only [List.getElem?_cons_zero, Option.some.injEq] at hv
    rw [above_zero] at *
    exact hv.symm.trans (State.readByte_of_settled hs)
  | n + 1 => simp at hv

theorem Reads.word (s : State) (k : AccessKind) (busy : Bool) (a : Word) :
    Reads s a [s.readByte a, (s.didRead k busy a).readByte (a + 1)] := by
  intro i v hv hs
  match i with
  | 0 =>
    simp only [List.getElem?_cons_zero, Option.some.injEq] at hv
    rw [above_zero] at *
    exact hv.symm.trans (State.readByte_of_settled hs)
  | 1 =>
    simp only [List.getElem?_cons_succ, List.getElem?_cons_zero, Option.some.injEq] at hv
    rw [above_one] at *
    exact hv.symm.trans ((s.didRead_run k busy a).readByte hs (by simp))
  | n + 2 => simp at hv

/-- The jump through a vector, after accesses that may have written. -/
theorem State.Run.loadsVector {s t u : State} {accs : List Access} {ws : List (Word × Byte)} (h : s.Run t accs ws)
    (v : Word) (hb : u.bus = (t.loadVector v).bus) (hp : u.pc = (t.loadVector v).pc) : LoadsVector s u v accs := by
  have hv := t.didReadWord_run .vector v
  have hr : s.Run u _ _ := (h.trans hv).congr rfl hb
  have hu : ∀ w, Undisturbed s w → u.mem.read w.toNat = t.mem.read w.toNat := fun w hw => by
    rw [State.mem, hb]; exact hv.keepsMemory w (h.undisturbed hw)
  refine ⟨t.readByte v, (t.didRead .vector true v).readByte (v + 1), hp, hr.makes, fun hs => ?_, fun hs => ?_⟩
  · rw [hu v hs.2]; exact State.readByte_of_settled (h.settled hs)
  · rw [hu (v + 1) hs.2]; exact (t.didRead_run .vector true v).readByte (h.settled hs) (by simp)

end Sys2Proof.Machine
end

