-- ==== Sys2Proof/Laws/Operations.lean ====
section
/-! SUPPORT. For each shared operation, once, everything it does: what the next state holds, what it keeps, and its memory.
The meanings are calls of these operations, so a proof about an instruction cites the lemma of its operation. -/

namespace Sys2Proof.Machine

/-! ## The addressing mode's step changes at most a pointer register -/

theorem State.after8_acc (s : State) (o : Src8) (r : Acc) : (s.after8 o).acc r = s.acc r := by
  cases r <;> simp [State.acc]

theorem State.afterEA_acc (s : State) (o : Mem) (r : Acc) : (s.afterEA o).acc r = s.acc r := by
  cases r <;> simp [State.acc]

theorem State.after8_undefinedH (s : State) (o : Src8) : (s.after8 o).undefinedH = s.undefinedH := by
  simp [State.undefinedH]

theorem State.afterEA_undefinedH (s : State) (o : Mem) : (s.afterEA o).undefinedH = s.undefinedH := by
  simp [State.undefinedH]

theorem State.afterEA_d (s : State) (o : Mem) : (s.afterEA o).d = s.d := by simp [State.d]

theorem State.after16_d (s : State) (o : Src16) : (s.after16 o).d = s.d := by simp [State.d]

/-! ## The accesses of an addressing mode -/

/-- The bytes of an indirect address are the accesses of an indexed mode; none where it is not indirect. -/
theorem State.afterIdx_run (s : State) (ix : Idx) :
    s.Run (s.afterIdx ix) (if idxIndirect ix then
      [⟨.pointer, s.idxAddr ix + 1, ((s.idxStep ix).didRead .pointer true (s.idxAddr ix)).readByte (s.idxAddr ix + 1), false⟩,
        ⟨.pointer, s.idxAddr ix, s.readByte (s.idxAddr ix), true⟩] else []) [] := by
  have hb : (s.idxStep ix).bus = s.bus := s.idxStep_bus ix
  unfold State.afterIdx
  split
  · have h := (s.idxStep ix).didReadWord_run .pointer (s.idxAddr ix)
    rw [show (s.idxStep ix).readByte (s.idxAddr ix) = s.readByte (s.idxAddr ix) by
      simp only [State.readByte, hb]] at h
    exact h.congr hb.symm rfl
  · exact State.Run.refl hb

/-- An addressing mode writes nothing, and leaves BUSY low. -/
theorem State.afterEA_run (s : State) (o : Mem) :
    ∃ accs, s.Run (s.afterEA o) accs [] ∧ ∀ x, accs.head? = some x → x.busy = false := by
  cases o with
  | dir d => exact ⟨[], .refl rfl, by simp⟩
  | ext a => exact ⟨[], .refl rfl, by simp⟩
  | idx ix =>
    refine ⟨_, s.afterIdx_run ix, ?_⟩
    split
    · intro x hx; simp only [List.head?_cons, Option.some.injEq] at hx; rw [← hx]
    · simp

theorem State.after8_mem_run (s : State) (o : Mem) :
    (s.afterEA o).Run (s.after8 (.mem o)) [⟨.load, s.ea o, s.operand8 (.mem o), false⟩] [] :=
  (s.afterEA o).didRead_run .load false (s.ea o)

theorem State.after16_mem_run (s : State) (o : Mem) :
    (s.afterEA o).Run (s.after16 (.mem o))
      [⟨.load, s.ea o + 1, ((s.afterEA o).didRead .load true (s.ea o)).readByte (s.ea o + 1), false⟩,
        ⟨.load, s.ea o, (s.afterEA o).readByte (s.ea o), true⟩] [] :=
  (s.afterEA o).didReadWord_run .load (s.ea o)

theorem State.after8_run (s : State) (o : Src8) :
    ∃ accs, s.Run (s.after8 o) accs [] ∧ ∀ x, accs.head? = some x → x.busy = false := by
  cases o with
  | imm m => exact ⟨[], .refl rfl, by simp⟩
  | mem o =>
    obtain ⟨accs, h, _⟩ := s.afterEA_run o
    refine ⟨_, h.trans (s.after8_mem_run o), ?_⟩
    intro x hx; simp only [List.cons_append, List.head?_cons, Option.some.injEq] at hx; rw [← hx]

theorem State.after16_run (s : State) (o : Src16) :
    ∃ accs, s.Run (s.after16 o) accs [] ∧ ∀ x, accs.head? = some x → x.busy = false := by
  cases o with
  | imm m => exact ⟨[], .refl rfl, by simp⟩
  | mem o =>
    obtain ⟨accs, h, _⟩ := s.afterEA_run o
    refine ⟨_, h.trans (s.after16_mem_run o), ?_⟩
    intro x hx; simp only [List.cons_append, List.head?_cons, Option.some.injEq] at hx; rw [← hx]

theorem KeepsMemory.of_bus {s m t : State} (h : KeepsMemory s m) (ht : t.bus = m.bus) : KeepsMemory s t := by
  intro a hu
  rw [State.mem, ht]
  exact h a hu

theorem Makes.of_bus {s t : State} (h : t.bus = s.bus) : Makes s t [] := (State.Run.refl h).makes

theorem KeepsMemory.refl_of_bus {s t : State} (h : t.bus = s.bus) : KeepsMemory s t := (State.Run.refl h).keepsMemory

theorem KeepsMemory.afterEA (s : State) (o : Mem) : KeepsMemory s (s.afterEA o) := by
  obtain ⟨_, h, _⟩ := s.afterEA_run o
  exact h.keepsMemory

theorem KeepsMemory.after8 (s : State) (o : Src8) : KeepsMemory s (s.after8 o) := by
  obtain ⟨_, h, _⟩ := s.after8_run o
  exact h.keepsMemory

theorem KeepsMemory.after16 (s : State) (o : Src16) : KeepsMemory s (s.after16 o) := by
  obtain ⟨_, h, _⟩ := s.after16_run o
  exact h.keepsMemory

/-! ## Keeping -/

theorem KeepsFlags.of_cc {s t : State} (h : t.cc = s.cc) (fs : List Flag) : KeepsFlags s t fs :=
  fun k _ => State.flag_congr h k

theorem KeepsRegs.refl (s : State) (rs : List Reg) : KeepsRegs s s rs := fun _ _ => rfl

/-- A state that differs only in CC and on the bus keeps every register. -/
theorem KeepsRegs.of_fields {s t : State} (ha : t.a = s.a) (hb : t.b = s.b) (hd : t.dp = s.dp) (hx : t.x = s.x)
    (hy : t.y = s.y) (hu : t.u = s.u) (hs : t.sp = s.sp) (hp : t.pc = s.pc) (rs : List Reg) : KeepsRegs s t rs := by
  intro r _
  cases r <;> simp only [State.reg, ha, hb, hd, hx, hy, hu, hs, hp]

theorem State.setAcc_keepsRegs (s : State) (r : Acc) (v : Byte) : KeepsRegs s (s.setAcc r v) [r.reg] := by
  intro q hq
  cases r <;> cases q <;> first | rfl | exact absurd (List.mem_singleton.mpr rfl) hq

theorem State.setPtr_keepsRegs (s : State) (r : Ptr) (v : Word) : KeepsRegs s (s.setPtr r v) [ptrReg r] := by
  intro q hq
  cases r <;> cases q <;> first | rfl | exact absurd (List.mem_singleton.mpr rfl) hq

theorem State.load16_keepsRegs (s : State) (r : Reg16) (v : Word) : KeepsRegs s (s.load16 r v) r.regs := by
  intro q hq
  cases r <;> cases q <;> first | rfl | exact absurd (by decide) hq

@[simp] theorem State.load16_reg16 (s : State) (r : Reg16) (v : Word) : (s.load16 r v).reg16 r = v := by
  cases r <;> first | rfl | exact word_hi_lo v

theorem State.load16_nmiArmed (s : State) (r : Reg16) (v : Word) :
    (s.load16 r v).nmiArmed = (s.nmiArmed || r.arms) := by
  cases r <;> simp [State.load16, State.setD, State.loadS, Reg16.arms]

/-! ## 8-bit operations -/

theorem accOp_spec (alu : Byte → Byte → Byte → Bool → Out8) (r : Acc) (o : Src8) (s : State) :
    ∃ t, accOp alu r o s = .next t ∧
      t.acc r = (alu (s.acc r) (s.operand8 o) s.cc s.undefinedH).r ∧
      t.cc = (alu (s.acc r) (s.operand8 o) s.cc s.undefinedH).cc ∧
      KeepsRegs (s.after8 o) t [r.reg] ∧ KeepsControl (s.after8 o) t false ∧ KeepsPlatform (s.after8 o) t ∧
      KeepsMemory s t ∧ t.bus = (s.after8 o).bus := by
  refine ⟨_, rfl, ?_, ?_, ?_, ?_, ?_, ?_, ?_⟩
  · rw [← State.after8_acc s o r, ← State.after8_undefinedH s o, ← State.after8_cc s o]; cases r <;> rfl
  · simp only [State.after8_acc, State.after8_undefinedH, State.after8_cc]
  · exact State.setAcc_keepsRegs (s.after8 o) r _
  · simp [KeepsControl]
  · simp [KeepsPlatform]
  · exact (KeepsMemory.after8 s o).of_bus (by simp)
  · simp

theorem accTest_spec (alu : Byte → Byte → Byte → Bool → Out8) (r : Acc) (o : Src8) (s : State) :
    ∃ t, accTest alu r o s = .next t ∧
      t.acc r = s.acc r ∧ t.cc = (alu (s.acc r) (s.operand8 o) s.cc s.undefinedH).cc ∧
      KeepsRegs (s.after8 o) t [] ∧ KeepsControl (s.after8 o) t false ∧ KeepsPlatform (s.after8 o) t ∧
      KeepsMemory s t ∧ t.bus = (s.after8 o).bus := by
  refine ⟨_, rfl, ?_, ?_, ?_, ?_, ?_, ?_, rfl⟩
  · rw [← State.after8_acc s o r]; cases r <;> rfl
  · simp only [State.after8_acc, State.after8_undefinedH, State.after8_cc]
  · exact KeepsRegs.of_fields rfl rfl rfl rfl rfl rfl rfl rfl []
  · simp [KeepsControl]
  · simp [KeepsPlatform]
  · exact (KeepsMemory.after8 s o).of_bus rfl

theorem accStore_spec (r : Acc) (o : Mem) (s : State) :
    ∃ t, accStore r o s = .next t ∧
      t.cc = logicFlags8 (s.acc r) s.cc ∧
      KeepsRegs (s.afterEA o) t [] ∧ KeepsControl (s.afterEA o) t false ∧ KeepsPlatform (s.afterEA o) t ∧
      (s.afterEA o).Run t [⟨.store, s.ea o, s.acc r, false⟩] [(s.ea o, s.acc r)] := by
  refine ⟨_, rfl, ?_, ?_, ?_, ?_, ?_⟩
  · simp [State.afterEA_acc]
  · exact KeepsRegs.of_fields rfl rfl rfl rfl rfl rfl rfl rfl []
  · simp [KeepsControl]
  · simp [KeepsPlatform]
  · rw [State.afterEA_acc]
    exact (State.write_run (s.afterEA o) .store false (s.ea o) (s.acc r)).congr rfl rfl

theorem accModify_spec (alu : Byte → Byte → Bool → Out8) (r : Acc) (s : State) :
    ∃ t, accModify alu r s = .next t ∧
      t.acc r = (alu (s.acc r) s.cc s.undefinedH).r ∧ t.cc = (alu (s.acc r) s.cc s.undefinedH).cc ∧
      KeepsRegs s t [r.reg] ∧ KeepsControl s t false ∧ KeepsPlatform s t ∧ t.bus = s.bus := by
  refine ⟨_, rfl, ?_, rfl, ?_, ?_, ?_, ?_⟩
  · cases r <;> rfl
  · exact State.setAcc_keepsRegs s r _
  · simp [KeepsControl]
  · simp [KeepsPlatform]
  · simp

theorem accProbe_spec (alu : Byte → Byte → Bool → Out8) (r : Acc) (s : State) :
    ∃ t, accProbe alu r s = .next t ∧
      t.cc = (alu (s.acc r) s.cc s.undefinedH).cc ∧
      KeepsRegs s t [] ∧ KeepsControl s t false ∧ KeepsPlatform s t ∧ t.bus = s.bus :=
  ⟨_, rfl, rfl, KeepsRegs.of_fields rfl rfl rfl rfl rfl rfl rfl rfl [], by simp [KeepsControl], by simp [KeepsPlatform], rfl⟩

/-- A read-modify-write: the byte found, its replacement, and the two accesses. -/
theorem memModify_spec (alu : Byte → Byte → Bool → Out8) (o : Mem) (s : State) :
    let m := (Rmw.mem o).value s
    let out := alu m s.cc s.undefinedH
    ∃ t, memModify alu o s = .next t ∧ t.cc = out.cc ∧
      KeepsRegs (s.afterEA o) t [] ∧ KeepsControl (s.afterEA o) t false ∧ KeepsPlatform (s.afterEA o) t ∧
      (s.afterEA o).Run t [⟨.store, s.ea o, out.r, false⟩, ⟨.load, s.ea o, m, true⟩] [(s.ea o, out.r)] := by
  refine ⟨_, rfl, ?_, ?_, ?_, ?_, ?_⟩
  · simp [State.afterEA_undefinedH, Rmw.value]
  · exact KeepsRegs.of_fields rfl rfl rfl rfl rfl rfl rfl rfl []
  · simp [KeepsControl]
  · simp [KeepsPlatform]
  · rw [State.afterEA_undefinedH, State.afterEA_cc]
    exact ((s.afterEA o).didRead_run .load true (s.ea o)).write .store false (s.ea o) _ rfl

theorem memProbe_spec (alu : Byte → Byte → Bool → Out8) (o : Mem) (s : State) :
    let m := (Rmw.mem o).value s
    ∃ t, memProbe alu o s = .next t ∧ t.cc = (alu m s.cc s.undefinedH).cc ∧
      KeepsRegs (s.afterEA o) t [] ∧ KeepsControl (s.afterEA o) t false ∧ KeepsPlatform (s.afterEA o) t ∧
      KeepsMemory s t ∧ (s.afterEA o).Run t [⟨.load, s.ea o, m, false⟩] [] := by
  have hr : (s.afterEA o).Run _ _ _ := (s.afterEA o).didRead_run .load false (s.ea o)
  refine ⟨_, rfl, ?_, KeepsRegs.of_fields rfl rfl rfl rfl rfl rfl rfl rfl [], ?_, ?_, ?_, hr.congr rfl rfl⟩
  · simp [State.afterEA_undefinedH, Rmw.value]
  · simp [KeepsControl]
  · simp [KeepsPlatform]
  · obtain ⟨_, h, _⟩ := s.afterEA_run o
    exact (h.trans hr).keepsMemory

/-! ## 16-bit operations -/

theorem wideOp_spec (alu : Word → Word → Byte → Out16) (r : Reg16) (o : Src16) (s : State) :
    ∃ t, wideOp alu r o s = .next t ∧
      t.reg16 r = (alu ((s.after16 o).reg16 r) (s.operand16 o) s.cc).r ∧
      t.cc = (alu ((s.after16 o).reg16 r) (s.operand16 o) s.cc).cc ∧
      KeepsRegs (s.after16 o) t r.regs ∧ KeepsControl (s.after16 o) t r.arms ∧ KeepsPlatform (s.after16 o) t ∧
      KeepsMemory s t ∧ t.bus = (s.after16 o).bus := by
  refine ⟨_, rfl, ?_, ?_, ?_, ?_, ?_, ?_, ?_⟩
  · have h : ∀ (u : State) (c : Byte), ({ u with cc := c } : State).reg16 r = u.reg16 r := by intro u c; cases r <;> rfl
    rw [h, State.load16_reg16, State.after16_cc]
  · simp
  · exact State.load16_keepsRegs (s.after16 o) r _
  · exact ⟨State.load16_nmiArmed _ _ _, by simp, by simp⟩
  · simp [KeepsPlatform]
  · exact (KeepsMemory.after16 s o).of_bus (by simp)
  · simp

theorem wideTest_spec (alu : Word → Word → Byte → Out16) (r : Reg16) (o : Src16) (s : State) :
    ∃ t, wideTest alu r o s = .next t ∧
      t.cc = (alu ((s.after16 o).reg16 r) (s.operand16 o) s.cc).cc ∧
      KeepsRegs (s.after16 o) t [] ∧ KeepsControl (s.after16 o) t false ∧ KeepsPlatform (s.after16 o) t ∧
      KeepsMemory s t ∧ t.bus = (s.after16 o).bus := by
  refine ⟨_, rfl, ?_, KeepsRegs.of_fields rfl rfl rfl rfl rfl rfl rfl rfl [], ?_, ?_, ?_, rfl⟩
  · simp
  · simp [KeepsControl]
  · simp [KeepsPlatform]
  · exact (KeepsMemory.after16 s o).of_bus rfl

theorem wideStore_spec (r : Reg16) (o : Mem) (s : State) :
    let v := (s.afterEA o).reg16 r
    ∃ t, wideStore r o s = .next t ∧
      t.cc = logicFlags16 v s.cc ∧
      KeepsRegs (s.afterEA o) t [] ∧ KeepsControl (s.afterEA o) t false ∧ KeepsPlatform (s.afterEA o) t ∧
      (s.afterEA o).Run t [⟨.store, s.ea o + 1, loByte v, false⟩, ⟨.store, s.ea o, hiByte v, true⟩]
        [(s.ea o + 1, loByte v), (s.ea o, hiByte v)] := by
  refine ⟨_, rfl, ?_, ?_, ?_, ?_, ?_⟩
  · simp
  · exact KeepsRegs.of_fields rfl rfl rfl rfl rfl rfl rfl rfl []
  · simp [KeepsControl]
  · simp [KeepsPlatform]
  · exact ((s.afterEA o).writeWord_run .store (s.ea o) _).congr rfl rfl

theorem KeepsMemory.afterIdx (s : State) (ix : Idx) : KeepsMemory s (s.afterIdx ix) := (s.afterIdx_run ix).keepsMemory

theorem leaStack_spec (r : Reg16) (ix : Idx) (s : State) :
    ∃ t, leaStack r ix s = .next t ∧
      t.reg16 r = s.idxEA ix ∧ t.cc = s.cc ∧
      KeepsRegs (s.afterIdx ix) t r.regs ∧ KeepsControl (s.afterIdx ix) t r.arms ∧ KeepsPlatform (s.afterIdx ix) t ∧
      KeepsMemory s t ∧ t.bus = (s.afterIdx ix).bus := by
  refine ⟨_, rfl, State.load16_reg16 _ _ _, by simp, State.load16_keepsRegs _ _ _,
    ⟨State.load16_nmiArmed _ _ _, by simp, by simp⟩, by simp [KeepsPlatform], ?_, by simp⟩
  exact (KeepsMemory.afterIdx s ix).of_bus (by simp)

theorem leaIndex_spec (r : Reg16) (ix : Idx) (s : State) :
    ∃ t, leaIndex r ix s = .next t ∧
      t.reg16 r = s.idxEA ix ∧ t.cc = setFlag .z (s.idxEA ix == 0) s.cc ∧
      KeepsRegs (s.afterIdx ix) t r.regs ∧ KeepsControl (s.afterIdx ix) t r.arms ∧ KeepsPlatform (s.afterIdx ix) t ∧
      KeepsMemory s t ∧ t.bus = (s.afterIdx ix).bus := by
  refine ⟨_, rfl, ?_, ?_, State.load16_keepsRegs _ _ _, ⟨State.load16_nmiArmed _ _ _, by simp, by simp⟩,
    by simp [KeepsPlatform], ?_, by simp⟩
  · have h : ∀ (u : State) (v : Bool), (u.putFlag .z v).reg16 r = u.reg16 r := by intro u v; cases r <;> rfl
    rw [h, State.load16_reg16]
  · show setFlag .z _ _ = _
    simp
  · exact (KeepsMemory.afterIdx s ix).of_bus (by simp)

/-! ## Transfers of control -/

theorem branch_spec (k : Cond) (d : Word) (s : State) :
    ∃ t, branch k d s = .next t ∧ (k.Taken s → t.pc = s.pc + d) ∧ (¬k.Taken s → t.pc = s.pc) ∧
      Keeps s t [.pc] [] ∧ t.bus = s.bus := by
  refine ⟨_, rfl, fun h => ?_, fun h => ?_, ⟨fun r hr => ?_, KeepsFlags.of_cc ?_ [], ?_, ?_⟩, ?_⟩
  · rw [if_pos ((Cond.holds_iff k s).mpr h)]
  · rw [if_neg (fun e => h ((Cond.holds_iff k s).mp e))]
  · split
    · cases r <;> first | rfl | exact absurd (List.mem_singleton.mpr rfl) hr
    · rfl
  all_goals (try unfold KeepsControl); (try unfold KeepsPlatform); split <;> simp

theorem placedAt_append (a : Word) (bs cs : List Byte) :
    placedAt a (bs ++ cs) = placedAt a bs ++ placedAt (above a bs.length) cs := by
  induction bs generalizing a with
  | nil => simp [placedAt, above_zero]
  | cons v rest ih => simp only [List.cons_append, placedAt, ih, above_succ, List.length_cons]

theorem accesses_append (k : AccessKind) (a : Word) (bs cs : List Byte) :
    accesses k a (bs ++ cs) = accesses k a bs ++ accesses k (above a bs.length) cs := by
  induction bs generalizing a with
  | nil => simp [accesses, above_zero]
  | cons v rest ih => simp only [List.cons_append, accesses, ih, above_succ, List.length_cons]

theorem accesses_busy (k : AccessKind) (a : Word) (bs : List Byte) (x : Access) (h : x ∈ accesses k a bs) :
    x.busy = false := by
  induction bs generalizing a with
  | nil => simp [accesses] at h
  | cons v rest ih =>
    simp only [accesses, List.mem_cons] at h
    rcases h with rfl | h
    · rfl
    · exact ih (a + 1) h

theorem accesses_length (k : AccessKind) (a : Word) (bs : List Byte) : (accesses k a bs).length = bs.length := by
  induction bs generalizing a with
  | nil => rfl
  | cons v rest ih => simp [accesses, ih]

/-- What pushes since `s` have written: the bytes `bs`, `a` and up, the lowest last. -/
def State.Pushed (s t : State) (a : Word) (bs : List Byte) : Prop := s.Run t (accesses .push a bs) (placedAt a bs)

theorem State.Pushed.refl {s t : State} (h : t.bus = s.bus) (a : Word) : s.Pushed t a [] := State.Run.refl h

/-- `Push8` writes its byte just below the bytes already pushed. -/
theorem State.Pushed.push8 {s t : State} {k : Stack} {bs : List Byte} (h : s.Pushed t (t.top k) bs) (v : Byte) :
    s.Pushed (t.push8 k v) ((t.push8 k v).top k) (v :: bs) := by
  have e : t.top k - 1 + 1 = t.top k := by bv_omega
  rw [State.push8_top]
  unfold State.Pushed
  rw [accesses, placedAt, e]
  exact State.Run.write h .push false (t.top k - 1) v (by simp [State.push8, State.write])

/-- `Push16` writes the low byte and below it the high one. -/
theorem State.Pushed.push16 {s t : State} {k : Stack} {bs : List Byte} (h : s.Pushed t (t.top k) bs) (v : Word) :
    s.Pushed (t.push16 k v) ((t.push16 k v).top k) (wordBytes v ++ bs) := (h.push8 (loByte v)).push8 (hiByte v)

/-- Pushes store what they write. -/
theorem State.Pushed.stores {s t : State} {a : Word} {bs : List Byte} (h : s.Pushed t a bs) (hl : bs.length ≤ 65536) :
    Stores s t a bs := State.Run.stores_placed h hl

theorem State.Pushed.makes {s t : State} {a : Word} {bs : List Byte} (h : s.Pushed t a bs) :
    Makes s t (accesses .push a bs) := State.Run.makes h

/-- A word pushed on the S stack and then a jump: BSR, LBSR, JSR. -/
theorem push_jump_spec (s : State) (ret target : Word) :
    s.Pushed { s.push16 .s ret with pc := target } (s.sp - 2) (wordBytes ret) ∧
      ({ s.push16 .s ret with pc := target } : State).sp = s.sp - 2 ∧
      Keeps s { s.push16 .s ret with pc := target } [.pc, .s] [] := by
  have hsp : (s.push16 .s ret).sp = s.sp - 2 := State.push16_top s .s ret
  have hu : (s.push16 .s ret).u = s.u := State.push16_other s .s ret
  have h1 := (State.Pushed.refl (s := s) rfl (s.top .s)).push16 ret
  rw [State.push16_top, List.append_nil] at h1
  refine ⟨State.Run.congr h1 rfl rfl, hsp, fun r hr => ?_, KeepsFlags.of_cc (by simp) [], by simp [KeepsControl],
    by simp [KeepsPlatform]⟩
  cases r with
  | pc => exact absurd (by decide) hr
  | s => exact absurd (by decide) hr
  | u => exact hu
  | a => simp [State.reg]
  | b => simp [State.reg]
  | dp => simp [State.reg]
  | x => simp [State.reg]
  | y => simp [State.reg]

theorem branchToSubroutine_spec (d : Word) (s : State) :
    ∃ t, branchToSubroutine d s = .next t ∧ t.pc = s.pc + d ∧ t.sp = s.sp - 2 ∧
      s.Pushed t (s.sp - 2) (wordBytes s.pc) ∧ Keeps s t [.pc, .s] [] :=
  ⟨_, rfl, rfl, (push_jump_spec s s.pc _).2.1, (push_jump_spec s s.pc _).1, (push_jump_spec s s.pc _).2.2⟩

theorem jump_spec (o : Mem) (s : State) :
    ∃ t, jump o s = .next t ∧ t.pc = s.ea o ∧ Keeps (s.afterEA o) t [.pc] [] ∧ KeepsMemory s t ∧
      t.bus = (s.afterEA o).bus := by
  refine ⟨_, rfl, rfl, ⟨fun r hr => ?_, KeepsFlags.of_cc rfl [], by simp [KeepsControl], by simp [KeepsPlatform]⟩,
    (KeepsMemory.afterEA s o).of_bus rfl, rfl⟩
  cases r <;> first | rfl | exact absurd (List.mem_singleton.mpr rfl) hr

theorem jumpToSubroutine_spec (o : Mem) (s : State) :
    ∃ t, jumpToSubroutine o s = .next t ∧ t.pc = s.ea o ∧ t.sp = (s.afterEA o).sp - 2 ∧
      (s.afterEA o).Pushed t ((s.afterEA o).sp - 2) (wordBytes s.pc) ∧ Keeps (s.afterEA o) t [.pc, .s] [] :=
  ⟨_, rfl, rfl, (push_jump_spec (s.afterEA o) s.pc _).2.1, (push_jump_spec (s.afterEA o) s.pc _).1,
    (push_jump_spec (s.afterEA o) s.pc _).2.2⟩

/-! ## The step -/

/-- Everything a step that goes on can be: a reset, a halted step, an interrupt entry with or without stacking, a wake, a
wait, or an instruction. -/
theorem step_cases {s t : State} (h : step s = .next t) :
    t = s.beginStep.doReset ∨ t = s.boundary ∨ t = { s.boundary with runState := .running } ∨
    (∃ e, s.runState ≠ .cwaiWaiting ∧ s.boundary.request s.nextInputs = some e ∧ t = s.boundary.enter e true) ∨
    (∃ e, s.runState = .cwaiWaiting ∧ s.boundary.request s.nextInputs = some e ∧ t = s.boundary.enter e false) ∨
    (s.runState = .running ∧ ∃ i n, decode (Window.ofList s.boundary.fetch.1) = .instr i n ∧ exec i s.boundary.fetch.2 = .next t) := by
  have hr : s.boundary.runState = s.runState := by simp [State.boundary]
  unfold step State.stepWith at h
  split at h
  · left; cases h; rfl
  · split at h
    · right; left; cases h; rfl
    · change s.boundary.perform (s.boundary.action s.nextInputs) = .next t at h
      unfold State.perform at h
      split at h
      · next e c hact =>
        cases h
        unfold State.action at hact
        rw [hr] at hact
        right; right; right
        split at hact <;> (try split at hact) <;> cases hact
        · next h1 h2 => exact Or.inl ⟨e, by simp [h1], h2, rfl⟩
        · next h1 h2 => exact Or.inl ⟨e, by simp [h1], h2, rfl⟩
        · next h1 h2 => exact Or.inr (Or.inl ⟨e, h1, h2, rfl⟩)
      · next hact =>
        refine Or.inr (Or.inr (Or.inr (Or.inr (Or.inr ⟨?_, ?_⟩))))
        · unfold State.action at hact
          rw [hr] at hact
          split at hact <;> (try split at hact) <;> cases hact
          simp_all
        · unfold State.execute at h
          split at h
          · next i n hd => exact ⟨i, n, hd, h⟩
          all_goals cases h
      · right; right; left; cases h; rfl
      · right; left; cases h; rfl

end Sys2Proof.Machine
end

