-- ==== Sys2Proof/Laws/Stack.lean ====
section
/-! SUPPORT. The laws of the stacks: what a push of registers writes, what a pull of registers reads, what taking an
interrupt and returning from one do. -/

namespace Sys2Proof.Machine

/-! ## Pushing -/

theorem sub_sub_ofNat (a : Word) (m n : Nat) :
    a - BitVec.ofNat 16 m - BitVec.ofNat 16 n = a - BitVec.ofNat 16 (m + n) := by
  rw [BitVec.ofNat_add]; bv_omega

theorem State.push8If_top (s : State) (k : Stack) (c : Bool) (v : Byte) :
    (s.push8If k c v).top k = s.top k - BitVec.ofNat 16 c.toNat := by
  cases c
  · simp [State.push8If]
  · simp [State.push8If, State.push8_top]

theorem State.push16If_top (s : State) (k : Stack) (c : Bool) (v : Word) :
    (s.push16If k c v).top k = s.top k - BitVec.ofNat 16 (2 * c.toNat) := by
  cases c
  · simp [State.push16If]
  · simp [State.push16If, State.push16_top]

theorem State.Pushed.push8If {s t : State} {k : Stack} {bs : List Byte} (h : s.Pushed t (t.top k) bs) (c : Bool) (v : Byte) :
    s.Pushed (t.push8If k c v) ((t.push8If k c v).top k) ((if c then [v] else []) ++ bs) := by
  cases c
  · exact h
  · exact h.push8 v

theorem State.Pushed.push16If {s t : State} {k : Stack} {bs : List Byte} (h : s.Pushed t (t.top k) bs) (c : Bool) (v : Word) :
    s.Pushed (t.push16If k c v) ((t.push16If k c v).top k) ((if c then wordBytes v else []) ++ bs) := by
  cases c
  · exact h
  · exact h.push16 v

theorem State.pushRegs_top (s : State) (k : Stack) (l : RegList) :
    (s.pushRegs k l).top k = s.top k - BitVec.ofNat 16 (listSize l) := by
  simp only [State.pushRegs, State.push8If_top, State.push16If_top, sub_sub_ofNat, listSize]
  congr 2
  omega

/-- A push of registers writes their bytes from the old top down, PC first and CC last. -/
theorem State.pushRegs_pushed (s : State) (k : Stack) (l : RegList) :
    s.Pushed (s.pushRegs k l) ((s.pushRegs k l).top k) (s.pushedBytes k l) := by
  have e : s.pushedBytes k l =
      (if l.cc then [s.cc] else []) ++ ((if l.a then [s.a] else []) ++ ((if l.b then [s.b] else []) ++
      ((if l.dp then [s.dp] else []) ++ ((if l.x then wordBytes s.x else []) ++ ((if l.y then wordBytes s.y else []) ++
      ((if l.other then wordBytes (s.other k) else []) ++ ((if l.pc then wordBytes s.pc else []) ++ []))))))) := by
    simp [State.pushedBytes, List.append_assoc]
  rw [e]
  exact State.Pushed.push8If (State.Pushed.push8If (State.Pushed.push8If (State.Pushed.push8If (State.Pushed.push16If
    (State.Pushed.push16If (State.Pushed.push16If (State.Pushed.push16If (State.Pushed.refl rfl _) _ _) _ _) _ _) _ _) _ _)
    _ _) _ _) _ _

theorem optional_length (c : Bool) (p : List Byte) : (if c then p else []).length = c.toNat * p.length := by
  cases c <;> simp

theorem State.pushedBytes_length (s : State) (k : Stack) (l : RegList) : (s.pushedBytes k l).length = listSize l := by
  simp only [State.pushedBytes, List.length_append, optional_length, wordBytes, List.length_cons,
    List.length_nil, listSize]
  omega

theorem listSize_le (l : RegList) : listSize l ≤ 12 := by
  have h : ∀ c : Bool, c.toNat ≤ 1 := by decide
  have := h l.cc; have := h l.a; have := h l.b; have := h l.dp
  have := h l.x; have := h l.y; have := h l.other; have := h l.pc
  unfold listSize
  omega

/-- A push of registers stores their bytes from the new top up, CC lowest and PC highest. -/
theorem State.pushRegs_stores (s : State) (k : Stack) (l : RegList) :
    Stores s (s.pushRegs k l) ((s.pushRegs k l).top k) (s.pushedBytes k l) :=
  (s.pushRegs_pushed k l).stores (by rw [State.pushedBytes_length]; have := listSize_le l; omega)

/-- A push of registers changes no register but the pointer. -/
theorem State.pushRegs_keeps (s : State) (k : Stack) (l : RegList) : Keeps s (s.pushRegs k l) [k.reg] [] := by
  refine ⟨fun r hr => ?_, KeepsFlags.of_cc (by simp) [], by simp [KeepsControl], by simp [KeepsPlatform]⟩
  have ho := State.pushRegs_other s k l
  cases k <;> cases r <;> first | exact ho | exact absurd (by decide) hr | simp [State.reg]

/-- `PushEntireState` writes the twelve bytes of the entire state below the old S. -/
theorem State.pushEntireState_pushed (s : State) : s.Pushed s.pushEntireState (s.sp - 12) (s.entireFrame s.cc) := by
  have h := State.pushRegs_pushed s .s entireState
  rw [State.pushRegs_top] at h
  exact h

theorem State.pushEntireState_sp (s : State) : s.pushEntireState.sp = s.sp - 12 := State.pushRegs_top s .s entireState

/-! ## Pulling -/

/-- What pulls since `s` have read: the bytes `bs`, `a` and up. -/
def State.Pulled (s t : State) (a : Word) (bs : List Byte) : Prop :=
  s.Run t (accesses .pull a bs).reverse [] ∧ Reads s a bs

theorem Reads.nil (s : State) (a : Word) : Reads s a [] := fun i v hv => by simp at hv

theorem Reads.append {s : State} {a : Word} {bs cs : List Byte} (h : Reads s a bs) (h' : Reads s (above a bs.length) cs) :
    Reads s a (bs ++ cs) := by
  intro i v hv hs
  by_cases hi : i < bs.length
  · exact h i v (by rwa [List.getElem?_append_left hi] at hv) hs
  · have e : above a i = above (above a bs.length) (i - bs.length) := by
      rw [above_above, Nat.add_sub_of_le (Nat.le_of_not_lt hi)]
    rw [List.getElem?_append_right (Nat.le_of_not_lt hi)] at hv
    rw [e] at hs ⊢
    exact h' _ v hv hs

/-- What is read after accesses that write nothing is what memory held before them. -/
theorem Reads.of_run {s t : State} {accs : List Access} (hr : s.Run t accs []) {a : Word} {bs : List Byte}
    (h : Reads t a bs) : Reads s a bs := fun i v hv hs =>
  (h i v hv (hr.settled hs)).trans (hr.keepsMemory _ hs.2)

theorem State.Pulled.refl {s t : State} (h : t.bus = s.bus) (a : Word) : s.Pulled t a [] :=
  ⟨State.Run.refl h, Reads.nil s a⟩

theorem State.Pulled.trans {s t u : State} {a : Word} {bs cs : List Byte} (h : s.Pulled t a bs)
    (h' : t.Pulled u (above a bs.length) cs) : s.Pulled u a (bs ++ cs) := by
  refine ⟨?_, h.2.append (Reads.of_run h.1 h'.2)⟩
  rw [accesses_append, List.reverse_append]
  exact h.1.trans h'.1

theorem State.Pulled.congr {s t u : State} {a : Word} {bs : List Byte} (h : s.Pulled t a bs) (hu : u.bus = t.bus) :
    s.Pulled u a bs := ⟨h.1.congr rfl hu, h.2⟩

theorem State.popped8_pulled (s : State) (k : Stack) : s.Pulled (s.popped8 k) (s.top k) [s.pulled8 k] :=
  ⟨(s.didRead_run .pull false (s.top k)).congr rfl (by simp [State.popped8]), Reads.single (s.top k)⟩

theorem State.popped16_pulled (s : State) (k : Stack) :
    s.Pulled (s.popped16 k) (s.top k) [s.pulled8 k, (s.popped8 k).pulled8 k] := by
  have h := (s.popped8 k).popped8_pulled k
  rw [State.popped8_top] at h
  exact (s.popped8_pulled k).trans h

theorem pulled_append (bs cs : List Byte) (i : Nat) (h : i < bs.length) : pulled (bs ++ cs) i = pulled bs i := by
  unfold pulled
  rw [List.getD_append _ _ _ _ h]

theorem pulled_append_right (bs cs : List Byte) (i : Nat) : pulled (bs ++ cs) (bs.length + i) = pulled cs i := by
  unfold pulled
  rw [List.getD_append_right _ _ _ _ (Nat.le_add_right _ _), Nat.add_sub_cancel_left]

theorem pulledWord_append_right (bs cs : List Byte) (i : Nat) :
    pulledWord (bs ++ cs) (bs.length + i) = pulledWord cs i := by
  unfold pulledWord
  rw [pulled_append_right, Nat.add_assoc, pulled_append_right]

/-- One register of a list pulled, or not: the bytes read, and the register's value among all the bytes of the list. -/
theorem State.pull8If_spec {s t : State} {k : Stack} {bs : List Byte} (h : s.Pulled t (s.top k) bs)
    (ht : t.top k = above (s.top k) bs.length) (c : Bool) (put : State → Byte → State)
    (hb : ∀ u v, (put u v).bus = u.bus) (hk : ∀ u v, (put u v).top k = u.top k) :
    ∃ p : List Byte, p.length = c.toNat ∧ s.Pulled (t.pull8If k c put) (s.top k) (bs ++ p) ∧
      (t.pull8If k c put).top k = above (s.top k) (bs ++ p).length ∧
      (c = true → ∀ cs, t.pull8If k c put = put (t.popped8 k) (pulled (bs ++ p ++ cs) bs.length)) := by
  cases c
  · exact ⟨[], rfl, by rw [List.append_nil]; exact h, by rw [List.append_nil]; exact ht, fun e => nomatch e⟩
  · refine ⟨[t.pulled8 k], rfl, ?_, ?_, fun _ cs => ?_⟩
    · have h1 := t.popped8_pulled k
      rw [ht] at h1
      exact (h.trans h1).congr (hb _ _)
    · show (put _ _).top k = _
      rw [hk, State.popped8_top, ht, List.length_append, ← above_above]
      rfl
    · rw [List.append_assoc]
      have e := pulled_append_right bs ([t.pulled8 k] ++ cs) 0
      rw [Nat.add_zero] at e
      rw [e]
      rfl

/-- The same for a register of two bytes. -/
theorem State.pull16If_spec {s t : State} {k : Stack} {bs : List Byte} (h : s.Pulled t (s.top k) bs)
    (ht : t.top k = above (s.top k) bs.length) (c : Bool) (put : State → Word → State)
    (hb : ∀ u v, (put u v).bus = u.bus) (hk : ∀ u v, (put u v).top k = u.top k) :
    ∃ p : List Byte, p.length = 2 * c.toNat ∧ s.Pulled (t.pull16If k c put) (s.top k) (bs ++ p) ∧
      (t.pull16If k c put).top k = above (s.top k) (bs ++ p).length ∧
      (c = true → ∀ cs, t.pull16If k c put = put (t.popped16 k) (pulledWord (bs ++ p ++ cs) bs.length)) := by
  cases c
  · exact ⟨[], rfl, by rw [List.append_nil]; exact h, by rw [List.append_nil]; exact ht, fun e => nomatch e⟩
  · refine ⟨[t.pulled8 k, (t.popped8 k).pulled8 k], rfl, ?_, ?_, fun _ cs => ?_⟩
    · have h1 := t.popped16_pulled k
      rw [ht] at h1
      exact (h.trans h1).congr (hb _ _)
    · show (put _ _).top k = _
      rw [hk, State.popped16_top, ht, List.length_append, ← above_above]
      rfl
    · rw [List.append_assoc]
      have e := pulledWord_append_right bs ([t.pulled8 k, (t.popped8 k).pulled8 k] ++ cs) 0
      rw [Nat.add_zero] at e
      rw [e]
      rfl

theorem State.pull8If_a (s : State) (k : Stack) (c : Bool) (put : State → Byte → State)
    (h : ∀ t v, (put t v).a = t.a) : (s.pull8If k c put).a = s.a := by cases c <;> simp [State.pull8If, h]

theorem State.pull16If_a (s : State) (k : Stack) (c : Bool) (put : State → Word → State)
    (h : ∀ t v, (put t v).a = t.a) : (s.pull16If k c put).a = s.a := by cases c <;> simp [State.pull16If, h]

theorem State.pull8If_b (s : State) (k : Stack) (c : Bool) (put : State → Byte → State)
    (h : ∀ t v, (put t v).b = t.b) : (s.pull8If k c put).b = s.b := by cases c <;> simp [State.pull8If, h]

theorem State.pull16If_b (s : State) (k : Stack) (c : Bool) (put : State → Word → State)
    (h : ∀ t v, (put t v).b = t.b) : (s.pull16If k c put).b = s.b := by cases c <;> simp [State.pull16If, h]

theorem State.pull8If_dp (s : State) (k : Stack) (c : Bool) (put : State → Byte → State)
    (h : ∀ t v, (put t v).dp = t.dp) : (s.pull8If k c put).dp = s.dp := by cases c <;> simp [State.pull8If, h]

theorem State.pull16If_dp (s : State) (k : Stack) (c : Bool) (put : State → Word → State)
    (h : ∀ t v, (put t v).dp = t.dp) : (s.pull16If k c put).dp = s.dp := by cases c <;> simp [State.pull16If, h]

theorem State.pull8If_cc (s : State) (k : Stack) (c : Bool) (put : State → Byte → State)
    (h : ∀ t v, (put t v).cc = t.cc) : (s.pull8If k c put).cc = s.cc := by cases c <;> simp [State.pull8If, h]

theorem State.pull16If_cc (s : State) (k : Stack) (c : Bool) (put : State → Word → State)
    (h : ∀ t v, (put t v).cc = t.cc) : (s.pull16If k c put).cc = s.cc := by cases c <;> simp [State.pull16If, h]

theorem State.pull8If_x (s : State) (k : Stack) (c : Bool) (put : State → Byte → State)
    (h : ∀ t v, (put t v).x = t.x) : (s.pull8If k c put).x = s.x := by cases c <;> simp [State.pull8If, h]

theorem State.pull16If_x (s : State) (k : Stack) (c : Bool) (put : State → Word → State)
    (h : ∀ t v, (put t v).x = t.x) : (s.pull16If k c put).x = s.x := by cases c <;> simp [State.pull16If, h]

theorem State.pull8If_y (s : State) (k : Stack) (c : Bool) (put : State → Byte → State)
    (h : ∀ t v, (put t v).y = t.y) : (s.pull8If k c put).y = s.y := by cases c <;> simp [State.pull8If, h]

theorem State.pull16If_y (s : State) (k : Stack) (c : Bool) (put : State → Word → State)
    (h : ∀ t v, (put t v).y = t.y) : (s.pull16If k c put).y = s.y := by cases c <;> simp [State.pull16If, h]

theorem State.pull8If_pc (s : State) (k : Stack) (c : Bool) (put : State → Byte → State)
    (h : ∀ t v, (put t v).pc = t.pc) : (s.pull8If k c put).pc = s.pc := by cases c <;> simp [State.pull8If, h]

theorem State.pull16If_pc (s : State) (k : Stack) (c : Bool) (put : State → Word → State)
    (h : ∀ t v, (put t v).pc = t.pc) : (s.pull16If k c put).pc = s.pc := by cases c <;> simp [State.pull16If, h]

theorem State.pull8If_nmiArmed (s : State) (k : Stack) (c : Bool) (put : State → Byte → State)
    (h : ∀ t v, (put t v).nmiArmed = t.nmiArmed) : (s.pull8If k c put).nmiArmed = s.nmiArmed := by
  cases c <;> simp [State.pull8If, h]

theorem State.pull16If_nmiArmed (s : State) (k : Stack) (c : Bool) (put : State → Word → State)
    (h : ∀ t v, (put t v).nmiArmed = t.nmiArmed) : (s.pull16If k c put).nmiArmed = s.nmiArmed := by
  cases c <;> simp [State.pull16If, h]

theorem State.pull8If_other (s : State) (k : Stack) (c : Bool) (put : State → Byte → State)
    (h : ∀ t v, (put t v).other k = t.other k) : (s.pull8If k c put).other k = s.other k := by
  cases c <;> simp [State.pull8If, h]

theorem State.pull16If_other (s : State) (k : Stack) (c : Bool) (put : State → Word → State)
    (h : ∀ t v, (put t v).other k = t.other k) : (s.pull16If k c put).other k = s.other k := by
  cases c <;> simp [State.pull16If, h]

@[simp] theorem State.setOther_top (s : State) (k : Stack) (v : Word) : (s.setOther k v).top k = s.top k := by
  cases k <;> rfl

@[simp] theorem State.setOther_other (s : State) (k : Stack) (v : Word) : (s.setOther k v).other k = v := by
  cases k <;> rfl

/-- The pointers of a record whose U and S are those of another. -/
theorem State.other_congr {s t : State} (hu : t.u = s.u) (hs : t.sp = s.sp) (k : Stack) : t.other k = s.other k := by
  cases k <;> simp [State.other, hu, hs]

theorem State.top_congr {s t : State} (hu : t.u = s.u) (hs : t.sp = s.sp) (k : Stack) : t.top k = s.top k := by
  cases k <;> simp [State.top, hu, hs]

/-- A pull of registers, register by register: CC first and PC last, from the bytes at the old top and up. -/
theorem State.pullRegs_spec (s : State) (k : Stack) (l : RegList) :
    ∃ bs : List Byte, bs.length = listSize l ∧ s.Pulled (s.pullRegs k l) (s.top k) bs ∧
    (s.pullRegs k l).cc = (if l.cc then pulled bs 0 else s.cc) ∧
    (s.pullRegs k l).a = (if l.a then pulled bs (offA l) else s.a) ∧
    (s.pullRegs k l).b = (if l.b then pulled bs (offB l) else s.b) ∧
    (s.pullRegs k l).dp = (if l.dp then pulled bs (offDp l) else s.dp) ∧
    (s.pullRegs k l).x = (if l.x then pulledWord bs (offX l) else s.x) ∧
    (s.pullRegs k l).y = (if l.y then pulledWord bs (offY l) else s.y) ∧
    (s.pullRegs k l).other k = (if l.other then pulledWord bs (offOther l) else s.other k) ∧
    (s.pullRegs k l).pc = (if l.pc then pulledWord bs (offPc l) else s.pc) ∧
    (s.pullRegs k l).top k = above (s.top k) (listSize l) ∧
    (s.pullRegs k l).nmiArmed = (s.nmiArmed || (l.other && k == .u)) := by
  let s1 := s.pull8If k l.cc (fun t v => { t with cc := v })
  let s2 := s1.pull8If k l.a (fun t v => { t with a := v })
  let s3 := s2.pull8If k l.b (fun t v => { t with b := v })
  let s4 := s3.pull8If k l.dp (fun t v => { t with dp := v })
  let s5 := s4.pull16If k l.x (fun t v => { t with x := v })
  let s6 := s5.pull16If k l.y (fun t v => { t with y := v })
  let s7 := s6.pull16If k l.other (fun t v => t.setOther k v)
  let s8 := s7.pull16If k l.pc (fun t v => { t with pc := v })
  have hdef : s.pullRegs k l = s8 := rfl
  obtain ⟨p1, l1, h1, t1, e1⟩ := State.pull8If_spec (t := s) (State.Pulled.refl rfl (s.top k)) ((above_zero _).symm) l.cc
    (fun t v => { t with cc := v }) (fun t v => rfl) (fun t v => State.top_congr rfl rfl k)
  obtain ⟨p2, l2, h2, t2, e2⟩ := State.pull8If_spec (t := s1) (h1) (t1) l.a
    (fun t v => { t with a := v }) (fun t v => rfl) (fun t v => State.top_congr rfl rfl k)
  obtain ⟨p3, l3, h3, t3, e3⟩ := State.pull8If_spec (t := s2) (h2) (t2) l.b
    (fun t v => { t with b := v }) (fun t v => rfl) (fun t v => State.top_congr rfl rfl k)
  obtain ⟨p4, l4, h4, t4, e4⟩ := State.pull8If_spec (t := s3) (h3) (t3) l.dp
    (fun t v => { t with dp := v }) (fun t v => rfl) (fun t v => State.top_congr rfl rfl k)
  obtain ⟨p5, l5, h5, t5, e5⟩ := State.pull16If_spec (t := s4) (h4) (t4) l.x
    (fun t v => { t with x := v }) (fun t v => rfl) (fun t v => State.top_congr rfl rfl k)
  obtain ⟨p6, l6, h6, t6, e6⟩ := State.pull16If_spec (t := s5) (h5) (t5) l.y
    (fun t v => { t with y := v }) (fun t v => rfl) (fun t v => State.top_congr rfl rfl k)
  obtain ⟨p7, l7, h7, t7, e7⟩ := State.pull16If_spec (t := s6) (h6) (t6) l.other
    (fun t v => t.setOther k v) (fun t v => State.setOther_bus t k v) (fun t v => State.setOther_top t k v)
  obtain ⟨p8, l8, h8, t8, e8⟩ := State.pull16If_spec (t := s7) (h7) (t7) l.pc
    (fun t v => { t with pc := v }) (fun t v => rfl) (fun t v => State.top_congr rfl rfl k)
  have n0 : ([] : List Byte).length = 0 := rfl
  have n1 : ([] ++ p1).length = offA l := by simp only [List.length_append, List.length_nil, l1, offA, Nat.zero_add]
  have n2 : (([] ++ p1) ++ p2).length = offB l := by
    simp only [List.length_append, List.length_nil, l1, l2, offA, offB, Nat.zero_add]
  have n3 : ((([] ++ p1) ++ p2) ++ p3).length = offDp l := by
    simp only [List.length_append, List.length_nil, l1, l2, l3, offA, offB, offDp, Nat.zero_add]
  have n4 : (((([] ++ p1) ++ p2) ++ p3) ++ p4).length = offX l := by
    simp only [List.length_append, List.length_nil, l1, l2, l3, l4, offA, offB, offDp, offX, Nat.zero_add]
  have n5 : ((((([] ++ p1) ++ p2) ++ p3) ++ p4) ++ p5).length = offY l := by
    simp only [List.length_append, List.length_nil, l1, l2, l3, l4, l5, offA, offB, offDp, offX, offY, Nat.zero_add]
  have n6 : (((((([] ++ p1) ++ p2) ++ p3) ++ p4) ++ p5) ++ p6).length = offOther l := by
    simp only [List.length_append, List.length_nil, l1, l2, l3, l4, l5, l6, offA, offB, offDp, offX, offY, offOther,
      Nat.zero_add]
  have n7 : ((((((([] ++ p1) ++ p2) ++ p3) ++ p4) ++ p5) ++ p6) ++ p7).length = offPc l := by
    simp only [List.length_append, List.length_nil, l1, l2, l3, l4, l5, l6, l7, offA, offB, offDp, offX, offY, offOther,
      offPc, Nat.zero_add]
  refine ⟨(((((((([] ++ p1) ++ p2) ++ p3) ++ p4) ++ p5) ++ p6) ++ p7) ++ p8), ?_, h8, ?_, ?_, ?_, ?_, ?_, ?_, ?_, ?_, ?_, ?_⟩
  · simp only [List.length_append, List.length_nil, l1, l2, l3, l4, l5, l6, l7, l8, listSize]; omega
  · have f1 : s8.cc = s1.cc := by
      simp only [s8, s7, s6, s5, s4, s3, s2, State.pull8If_cc, State.pull16If_cc, State.setOther_cc, implies_true]
    have f2 : s.cc = s.cc := rfl
    rw [hdef, f1]
    by_cases hc : l.cc = true
    · have e := e1 hc (p2 ++ p3 ++ p4 ++ p5 ++ p6 ++ p7 ++ p8)
      rw [n0] at e
      rw [if_pos hc, show s1 = _ from e]
      simp only [List.append_assoc]
    · have e : s1 = s := if_neg hc
      rw [if_neg hc, e, f2]
  · have f1 : s8.a = s2.a := by
      simp only [s8, s7, s6, s5, s4, s3, State.pull8If_a, State.pull16If_a, State.setOther_a, implies_true]
    have f2 : s1.a = s.a := State.pull8If_a s k l.cc (fun t v => { t with cc := v }) (fun t v => rfl)
    rw [hdef, f1]
    by_cases hc : l.a = true
    · have e := e2 hc (p3 ++ p4 ++ p5 ++ p6 ++ p7 ++ p8)
      rw [n1] at e
      rw [if_pos hc, show s2 = _ from e]
      simp only [List.append_assoc]
    · have e : s2 = s1 := if_neg hc
      rw [if_neg hc, e, f2]
  · have f1 : s8.b = s3.b := by
      simp only [s8, s7, s6, s5, s4, State.pull8If_b, State.pull16If_b, State.setOther_b, implies_true]
    have f2 : s2.b = s.b := by simp only [s2, s1, State.pull8If_b, implies_true]
    rw [hdef, f1]
    by_cases hc : l.b = true
    · have e := e3 hc (p4 ++ p5 ++ p6 ++ p7 ++ p8)
      rw [n2] at e
      rw [if_pos hc, show s3 = _ from e]
      simp only [List.append_assoc]
    · have e : s3 = s2 := if_neg hc
      rw [if_neg hc, e, f2]
  · have f1 : s8.dp = s4.dp := by simp only [s8, s7, s6, s5, State.pull16If_dp, State.setOther_dp, implies_true]
    have f2 : s3.dp = s.dp := by simp only [s3, s2, s1, State.pull8If_dp, implies_true]
    rw [hdef, f1]
    by_cases hc : l.dp = true
    · have e := e4 hc (p5 ++ p6 ++ p7 ++ p8)
      rw [n3] at e
      rw [if_pos hc, show s4 = _ from e]
      simp only [List.append_assoc]
    · have e : s4 = s3 := if_neg hc
      rw [if_neg hc, e, f2]
  · have f1 : s8.x = s5.x := by simp only [s8, s7, s6, State.pull16If_x, State.setOther_x, implies_true]
    have f2 : s4.x = s.x := by simp only [s4, s3, s2, s1, State.pull8If_x, implies_true]
    rw [hdef, f1]
    by_cases hc : l.x = true
    · have e := e5 hc (p6 ++ p7 ++ p8)
      rw [n4] at e
      rw [if_pos hc, show s5 = _ from e]
      simp only [List.append_assoc]
    · have e : s5 = s4 := if_neg hc
      rw [if_neg hc, e, f2]
  · have f1 : s8.y = s6.y := by simp only [s8, s7, State.pull16If_y, State.setOther_y, implies_true]
    have f2 : s5.y = s.y := by simp only [s5, s4, s3, s2, s1, State.pull8If_y, State.pull16If_y, implies_true]
    rw [hdef, f1]
    by_cases hc : l.y = true
    · have e := e6 hc (p7 ++ p8)
      rw [n5] at e
      rw [if_pos hc, show s6 = _ from e]
      simp only [List.append_assoc]
    · have e : s6 = s5 := if_neg hc
      rw [if_neg hc, e, f2]
  · have f1 : s8.other k = s7.other k := State.pull16If_other _ k _ _ fun _ _ => State.other_congr rfl rfl k
    have f2 : s6.other k = s.other k := by
      iterate 2 refine (State.pull16If_other _ k _ _ (by intros; exact State.other_congr rfl rfl k)).trans ?_
      iterate 3 refine (State.pull8If_other _ k _ _ (by intros; exact State.other_congr rfl rfl k)).trans ?_
      exact State.pull8If_other _ k _ _ (by intros; exact State.other_congr rfl rfl k)
    rw [hdef, f1]
    by_cases hc : l.other = true
    · have e := e7 hc (p8)
      rw [n6] at e
      rw [if_pos hc, show s7 = _ from e]
      simp only [List.append_assoc, State.setOther_other]
    · have e : s7 = s6 := if_neg hc
      rw [if_neg hc, e, f2]
  · have f1 : s8.pc = s8.pc := rfl
    have f2 : s7.pc = s.pc := by
      simp only [s7, s6, s5, s4, s3, s2, s1, State.pull8If_pc, State.pull16If_pc, State.setOther_pc, implies_true]
    rw [hdef, f1]
    by_cases hc : l.pc = true
    · have e := e8 hc ([])
      rw [n7] at e
      rw [if_pos hc, show s8 = _ from e]
      simp only [List.append_assoc, List.append_nil]
    · have e : s8 = s7 := if_neg hc
      rw [if_neg hc, e, f2]
  · rw [hdef, t8]
    congr 1
    simp only [List.length_append, List.length_nil, l1, l2, l3, l4, l5, l6, l7, l8, listSize]; omega
  · have f1 : s8.nmiArmed = s7.nmiArmed := by simp only [s8, State.pull16If_nmiArmed, implies_true]
    have f2 : s6.nmiArmed = s.nmiArmed := by
      simp only [s6, s5, s4, s3, s2, s1, State.pull8If_nmiArmed, State.pull16If_nmiArmed, implies_true]
    rw [hdef, f1]
    by_cases hc : l.other = true
    · rw [show s7 = _ from e7 hc [], hc]
      have n6 : (s6.popped16 k).nmiArmed = s.nmiArmed := (State.popped16_nmiArmed s6 k).trans f2
      cases k with
      | s => simpa [State.setOther, show (Stack.s == Stack.u) = false from rfl] using n6
      | u => simp [State.setOther, State.loadS]
    · have e : s7 = s6 := if_neg hc
      rw [e, f2]
      simp [hc]

/-- The pull of a program: its next state keeps memory, the platform and all it does not name. -/
theorem State.pullRegs_control (s : State) (k : Stack) (l : RegList) :
    KeepsControl s (s.pullRegs k l) (l.other && k == .u) ∧ KeepsPlatform s (s.pullRegs k l) ∧
      KeepsMemory s (s.pullRegs k l) := by
  obtain ⟨bs, _, hp, h⟩ := State.pullRegs_spec s k l
  exact ⟨⟨h.2.2.2.2.2.2.2.2.2, by simp, by simp⟩, by simp [KeepsPlatform], hp.1.keepsMemory⟩

/-! ## Interrupts -/

theorem State.setMasks_flag (s : State) (e : Exc) (q : Flag) :
    (s.setMasks e).flag q = if q = .i ∧ (e = .nmi ∨ e = .firq ∨ e = .irq ∨ e = .swi) then true
      else if q = .f ∧ (e = .nmi ∨ e = .firq ∨ e = .swi) then true else s.flag q := by
  cases e <;> cases q <;> simp [State.setMasks]

/-- The bytes an interrupt stacks, from the new top up: the entire state with E set, or CC with E clear and the pc. -/
def State.frameBytes (s : State) (e : Exc) : List Byte :=
  if e = .firq then [s.cc &&& 0x7F, hiByte s.pc, loByte s.pc] else s.entireFrame (s.cc ||| 0x80)

/-- S after the stacking of an interrupt. -/
def State.frameTop (s : State) (e : Exc) : Word := if e = .firq then s.sp - 3 else s.sp - 12

/-- What an interrupt's stacking writes. -/
theorem State.stackFrame_pushed (s : State) (e : Exc) : s.Pushed (s.stackFrame e) (s.frameTop e) (s.frameBytes e) := by
  have entire : s.Pushed (s.putFlag .e true).pushEntireState (s.sp - 12) (s.entireFrame (s.cc ||| 0x80)) :=
    State.Run.congr (State.pushEntireState_pushed (s.putFlag .e true)) rfl rfl
  cases e with
  | firq =>
    have h1 := (State.Pushed.refl (s := s) rfl (s.top .s)).push16 s.pc
    have h2 : s.Pushed ((s.push16 .s s.pc).putFlag .e false) (((s.push16 .s s.pc).putFlag .e false).top .s)
        (wordBytes s.pc ++ []) := State.Run.congr h1 rfl rfl
    have h3 := h2.push8 ((s.push16 .s s.pc).putFlag .e false).cc
    have e1 : (((s.push16 .s s.pc).putFlag .e false).push8 .s ((s.push16 .s s.pc).putFlag .e false).cc).top .s =
        s.sp - 3 := by
      rw [State.push8_top]
      show (s.push16 .s s.pc).top .s - 1 = s.sp - 3
      rw [State.push16_top]
      show s.sp - 2 - 1 = s.sp - 3
      bv_omega
    have e2 : ((s.push16 .s s.pc).putFlag .e false).cc = s.cc &&& 0x7F := by
      rw [← setFlag_e_false]
      show setFlag .e false (s.push16 .s s.pc).cc = _
      rw [State.push16_cc]
    rw [e1, e2] at h3
    rw [← e2] at h3
    simp only [State.frameTop, State.frameBytes, if_pos]
    rw [← e2]
    exact h3
  | nmi => exact entire
  | irq => exact entire
  | swi => exact entire
  | swi2 => exact entire
  | swi3 => exact entire

theorem State.stackFrame_sp (s : State) (e : Exc) : (s.stackFrame e).sp = s.frameTop e := by
  have entire : (s.putFlag .e true).pushEntireState.sp = s.sp - 12 := State.pushEntireState_sp _
  cases e with
  | firq =>
    show (State.push8 _ .s _).top .s = _
    rw [State.push8_top]
    show (s.push16 .s s.pc).top .s - 1 = _
    rw [State.push16_top]
    show s.sp - 2 - 1 = s.sp - 3
    bv_omega
  | nmi => exact entire
  | irq => exact entire
  | swi => exact entire
  | swi2 => exact entire
  | swi3 => exact entire

theorem State.stackFrame_flag (s : State) (e : Exc) (q : Flag) :
    (s.stackFrame e).flag q = if q = .e then (e != .firq) else s.flag q := by
  have entire : (s.putFlag .e true).pushEntireState.flag q = if q = .e then true else s.flag q := by
    rw [State.flag_congr (State.pushEntireState_cc _) q, State.putFlag_flag]
  cases e with
  | firq =>
    show (State.push8 _ .s _).flag q = _
    rw [State.flag_congr (State.push8_cc _ _ _) q, State.putFlag_flag, State.flag_congr (State.push16_cc s .s s.pc) q]
    rfl
  | nmi => exact entire
  | irq => exact entire
  | swi => exact entire
  | swi2 => exact entire
  | swi3 => exact entire

theorem State.frameBytes_length (s : State) (e : Exc) : (s.frameBytes e).length ≤ 12 := by
  unfold State.frameBytes State.entireFrame
  split <;> simp

/-- The jump through a vector stores nothing more. -/
theorem Stores.of_keepsMemory {s t u : State} {a : Word} {bs : List Byte} (h : Stores s t a bs)
    (hu : ∀ w, Undisturbed s w → u.mem.read w.toNat = t.mem.read w.toNat)
    (hn : ∀ w, kindAt s.memMap w ≠ .ram → u.mem.read w.toNat = t.mem.read w.toNat) : Stores s u a bs :=
  ⟨fun w hw hi => (hu w hw).trans (h.1 w hw hi), fun w hw => (hn w hw).trans (h.2.1 w hw),
    fun hw i v hv hk hd => (hu _ hd).trans (h.2.2 hw i v hv hk hd)⟩

/-- Taking an interrupt with its stacking, all of it: the frame stored, the accesses in their order, S, the flags. -/
theorem State.enter_spec (s : State) (e : Exc) :
    (s.enter e true).sp = s.frameTop e ∧
    Stores s (s.enter e true) (s.frameTop e) (s.frameBytes e) ∧
    LoadsVector s (s.enter e true) e.vector (accesses .push (s.frameTop e) (s.frameBytes e)) ∧
    (∀ q, (s.enter e true).flag q =
      if q = .e then (e != .firq)
      else if q = .i ∧ (e = .nmi ∨ e = .firq ∨ e = .irq ∨ e = .swi) then true
      else if q = .f ∧ (e = .nmi ∨ e = .firq ∨ e = .swi) then true else s.flag q) ∧
    KeepsRegs s (s.enter e true) [.s, .pc] := by
  have hf : s.Run ((s.stackFrame e).setMasks e) (accesses .push (s.frameTop e) (s.frameBytes e))
      (placedAt (s.frameTop e) (s.frameBytes e)) := State.Run.congr (s.stackFrame_pushed e) rfl (by simp)
  have hv := ((s.stackFrame e).setMasks e).didReadWord_run .vector e.vector
  have hr : s.Run (s.enter e true) _ _ := State.Run.congr (hf.trans hv) rfl rfl
  refine ⟨?_, ?_, hf.loadsVector e.vector rfl rfl, fun q => ?_, fun r hr => ?_⟩
  · rw [← State.stackFrame_sp]; simp [State.enter]
  · exact State.Run.stores_placed hr (by have := s.frameBytes_length e; omega)
  · show ((s.stackFrame e).setMasks e).flag q = _
    rw [State.setMasks_flag, State.stackFrame_flag]
    cases e <;> cases q <;> simp
  · cases r <;> first | exact absurd (by decide) hr | simp [State.reg]

/-- Taking an interrupt from the CWAI wait: nothing is stacked and only masks, the pc and, after FIRQ, the live E change. -/
theorem State.enter_wait_spec (s : State) (e : Exc) :
    LoadsVector s (s.enter e false) e.vector [] ∧
    (∀ q, (q = .e → e ≠ .firq) → (s.enter e false).flag q =
      if q = .i ∧ (e = .nmi ∨ e = .firq ∨ e = .irq ∨ e = .swi) then true
      else if q = .f ∧ (e = .nmi ∨ e = .firq ∨ e = .swi) then true else s.flag q) ∧
    KeepsRegs s (s.enter e false) [.pc] ∧ KeepsMemory s (s.enter e false) := by
  have hf : s.Run ((s.keepFrame e).setMasks e) [] [] := State.Run.refl (by simp)
  have hv := ((s.keepFrame e).setMasks e).didReadWord_run .vector e.vector
  have hr : s.Run (s.enter e false) _ _ := State.Run.congr (hf.trans hv) rfl rfl
  refine ⟨hf.loadsVector e.vector rfl rfl, fun q hq => ?_, fun r hr => ?_, hr.keepsMemory⟩
  · show ((s.keepFrame e).setMasks e).flag q = _
    rw [State.setMasks_flag]
    cases e <;> cases q <;> simp_all [State.keepFrame]
  · cases r <;> first | exact absurd (by decide) hr | simp [State.reg, State.enter]

/-- BUSY is low after the jump through a vector. -/
theorem State.enter_busy (s : State) (e : Exc) (c : Bool) : (s.enter e c).bus.busy = false := by cases c <;> rfl

/-- An entry keeps memory's canonical form. -/
theorem State.enter_wf (s : State) (e : Exc) (c : Bool) (h : s.mem.wf = true) : (s.enter e c).mem.wf = true := by
  cases c with
  | false =>
    have hf : s.Run ((s.keepFrame e).setMasks e) [] [] := State.Run.refl (by simp)
    exact (State.Run.congr (hf.trans (((s.keepFrame e).setMasks e).didReadWord_run .vector e.vector)) rfl rfl :
      s.Run (s.enter e false) _ _).wf h
  | true =>
    have hf : s.Run ((s.stackFrame e).setMasks e) _ _ := State.Run.congr (s.stackFrame_pushed e) rfl (by simp)
    exact (State.Run.congr (hf.trans (((s.stackFrame e).setMasks e).didReadWord_run .vector e.vector)) rfl rfl :
      s.Run (s.enter e true) _ _).wf h

/-- Returning from an interrupt, all of it. -/
theorem State.returnFromInterrupt_spec (s : State) :
    ∃ bs : List Byte, s.Pulled s.returnFromInterrupt s.sp bs ∧ s.returnFromInterrupt.cc = pulled bs 0 ∧ 0 < bs.length ∧
    (s.returnFromInterrupt.flag .e = true →
      bs.length = 12 ∧ s.returnFromInterrupt.a = pulled bs 1 ∧ s.returnFromInterrupt.b = pulled bs 2 ∧
      s.returnFromInterrupt.dp = pulled bs 3 ∧ s.returnFromInterrupt.x = pulledWord bs 4 ∧
      s.returnFromInterrupt.y = pulledWord bs 6 ∧ s.returnFromInterrupt.u = pulledWord bs 8 ∧
      s.returnFromInterrupt.pc = pulledWord bs 10 ∧ s.returnFromInterrupt.sp = s.sp + 12) ∧
    (s.returnFromInterrupt.flag .e = false →
      bs.length = 3 ∧ s.returnFromInterrupt.pc = pulledWord bs 1 ∧ s.returnFromInterrupt.sp = s.sp + 3 ∧
      KeepsRegs s s.returnFromInterrupt [.pc, .s]) ∧
    s.returnFromInterrupt.nmiArmed = s.nmiArmed := by
  let l1 : RegList := ⟨false, false, false, false, false, false, false, true⟩
  let s1 := s.pullRegs .s l1
  obtain ⟨b1, n1, p1, c1, h1⟩ := State.pullRegs_spec s .s l1
  have n1' : b1.length = 1 := n1
  have top1 : s1.top .s = above (s.top .s) 1 := h1.2.2.2.2.2.2.2.1
  let l2 : RegList := ⟨true, s1.flag .e, s1.flag .e, s1.flag .e, s1.flag .e, s1.flag .e, s1.flag .e, false⟩
  have hdef : s.returnFromInterrupt = s1.pullRegs .s l2 := rfl
  obtain ⟨b2, n2, p2, c2, ha, hb, hd, hx, hy, ho, hp, ht, hn⟩ := State.pullRegs_spec s1 .s l2
  have b8 : ∀ i, pulled (b1 ++ b2) (1 + i) = pulled b2 i := fun i => by rw [← n1', pulled_append_right]
  have b16 : ∀ i, pulledWord (b1 ++ b2) (1 + i) = pulledWord b2 i := fun i => by rw [← n1', pulledWord_append_right]
  have hcc : s.returnFromInterrupt.cc = s1.cc := c2
  have he : s.returnFromInterrupt.flag .e = s1.flag .e := State.flag_congr hcc .e
  have top1' : s1.top .s = above (s.top .s) b1.length := by rw [n1']; exact top1
  rw [top1'] at p2
  refine ⟨b1 ++ b2, p1.trans p2, ?_, by rw [List.length_append]; omega, fun h => ?_, fun h => ?_, ?_⟩
  · rw [hcc, pulled_append b1 b2 0 (by omega)]; exact c1
  · rw [he] at h
    have el : l2 = ⟨true, true, true, true, true, true, true, false⟩ := by simp [l2, h]
    rw [hdef]
    rw [el] at n2 ha hb hd hx hy ho hp ht ⊢
    refine ⟨by rw [List.length_append, n1', n2]; rfl, ha.trans (b8 0).symm, hb.trans (b8 1).symm, hd.trans (b8 2).symm,
      hx.trans (b16 3).symm, hy.trans (b16 5).symm, ho.trans (b16 7).symm, hp.trans (b16 9).symm, ?_⟩
    refine ht.trans ?_
    rw [top1, above_above]
    rfl
  · rw [he] at h
    have el : l2 = ⟨true, false, false, false, false, false, false, false⟩ := by simp [l2, h]
    rw [hdef]
    rw [el] at n2 ha hb hd hx hy ho hp ht ⊢
    refine ⟨by rw [List.length_append, n1', n2]; rfl, hp.trans (b16 0).symm, ?_, fun r hr => ?_⟩
    · refine ht.trans ?_
      rw [top1, above_above]
      rfl
    · cases r with
      | a => exact congrArg zext8 (ha.trans h1.1)
      | b => exact congrArg zext8 (hb.trans h1.2.1)
      | dp => exact congrArg zext8 (hd.trans h1.2.2.1)
      | x => exact hx.trans h1.2.2.2.1
      | y => exact hy.trans h1.2.2.2.2.1
      | u => exact ho.trans h1.2.2.2.2.2.1
      | s => exact absurd (by decide) hr
      | pc => exact absurd (by decide) hr
  · have e1 : s1.nmiArmed = s.nmiArmed := h1.2.2.2.2.2.2.2.2.trans (Bool.or_false _)
    rw [hdef, hn, e1]
    show (s.nmiArmed || (_ && false)) = _
    rw [Bool.and_false, Bool.or_false]

/-- A return from an interrupt keeps the latch, the run state, the platform and memory. -/
theorem State.returnFromInterrupt_keeps (s : State) :
    KeepsControl s s.returnFromInterrupt false ∧ KeepsPlatform s s.returnFromInterrupt ∧
      KeepsMemory s s.returnFromInterrupt := by
  obtain ⟨bs, hp, h⟩ := State.returnFromInterrupt_spec s
  refine ⟨⟨?_, State.returnFromInterrupt_nmiPending s, State.returnFromInterrupt_runState s⟩,
    ⟨State.returnFromInterrupt_platform s, State.returnFromInterrupt_inputs s, State.returnFromInterrupt_tick s⟩,
    hp.1.keepsMemory⟩
  rw [h.2.2.2.2, Bool.or_false]

/-- BUSY is low after pulls. -/
theorem State.Pulled.busy {s t : State} {a : Word} {bs : List Byte} (h : s.Pulled t a bs) (hs : s.bus.busy = false) :
    t.bus.busy = false :=
  h.1.busy hs fun x hx => accesses_busy .pull a bs x (List.mem_reverse.mp (List.mem_of_mem_head? hx))

/-- BUSY is low after pushes. -/
theorem State.Pushed.busy {s t : State} {a : Word} {bs : List Byte} (h : s.Pushed t a bs) (hs : s.bus.busy = false) :
    t.bus.busy = false :=
  State.Run.busy h hs fun x hx => accesses_busy .push a bs x (List.mem_of_mem_head? hx)

/-- RTS: the pc pulled from the S stack, and nothing else but S changed. -/
theorem execRts_spec (s : State) :
    ∃ t, execRts s = .next t ∧ t.pc = word (s.pulled8 .s) ((s.popped8 .s).pulled8 .s) ∧ t.sp = s.sp + 2 ∧
      s.Pulled t s.sp [s.pulled8 .s, (s.popped8 .s).pulled8 .s] ∧ Keeps s t [.pc, .s] [] := by
  have hp : s.Pulled (s.popped16 .s) s.sp _ := s.popped16_pulled .s
  have hs : (s.popped16 .s).sp = s.sp + 2 := State.popped16_top s .s
  refine ⟨_, rfl, rfl, hs, hp.congr rfl, fun r hr => ?_, KeepsFlags.of_cc (State.popped16_cc s .s) [], by simp [KeepsControl],
    by simp [KeepsPlatform]⟩
  cases r with
  | pc => exact absurd (by decide) hr
  | s => exact absurd (by decide) hr
  | u => exact State.popped16_other s .s
  | _ => simp [State.reg]

/-- CWAI: CC ANDed with the byte and E set, then the entire state pushed, then the wait. -/
theorem execCwai_spec (m : Byte) (s : State) :
    ∃ t, execCwai m s = .next t ∧ t.cc = (s.cc &&& m) ||| 0x80 ∧ t.runState = .cwaiWaiting ∧ t.sp = s.sp - 12 ∧
      s.Pushed t (s.sp - 12) (s.entireFrame ((s.cc &&& m) ||| 0x80)) ∧ KeepsRegs s t [.s] ∧
      t.nmiArmed = s.nmiArmed ∧ t.nmiPending = s.nmiPending ∧ KeepsPlatform s t := by
  let u : State := State.putFlag { s with cc := s.cc &&& m } .e true
  have hc : u.pushEntireState.cc = (s.cc &&& m) ||| 0x80 := State.pushEntireState_cc u
  have hs : u.pushEntireState.sp = s.sp - 12 := State.pushEntireState_sp u
  have hp : s.Pushed u.pushEntireState (s.sp - 12) (s.entireFrame ((s.cc &&& m) ||| 0x80)) :=
    State.Run.congr (State.pushEntireState_pushed u) rfl rfl
  have hr : KeepsRegs s u.pushEntireState [.s] := State.pushRegs_keeps u .s entireState |>.1
  have hn : u.pushEntireState.nmiArmed = s.nmiArmed ∧ u.pushEntireState.nmiPending = s.nmiPending ∧
      KeepsPlatform s u.pushEntireState := by simp [u, KeepsPlatform]
  exact ⟨{ u.pushEntireState with runState := .cwaiWaiting }, rfl, hc, rfl, hs, hp,
    fun r h => (show _ = u.pushEntireState.reg r by cases r <;> rfl).trans (hr r h), hn⟩

end Sys2Proof.Machine
end

