-- ==== Sys2Proof/Laws/Boundary.lean ====
section
/-! SUPPORT. The laws of the instruction boundary: what it changes, which interrupt it finds ready, what a step does that
neither resets nor halts, and what the fetch of an instruction does. -/

namespace Sys2Proof.Machine

/-- The boundary changes memory, the latch, the inputs and the counter only. -/
theorem State.boundary_fields (s : State) :
    s.boundary.runState = s.runState ∧ s.boundary.bus.platform = s.bus.platform ∧ s.boundary.inputs = s.inputs.tail ∧
    s.boundary.tick = s.tick + 1 ∧ s.boundary.nmiArmed = s.nmiArmed ∧
    s.boundary.nmiPending = (s.nmiPending || s.nextInputs.nmiEdge) ∧ s.boundary.cc = s.cc := by
  simp [State.boundary, State.latchNmi]

theorem State.boundary_reg (s : State) (r : Reg) : s.boundary.reg r = s.reg r := by
  cases r <;> simp [State.reg, State.boundary]

theorem State.boundary_flag (s : State) (k : Flag) : s.boundary.flag k = s.flag k :=
  State.flag_congr s.boundary_fields.2.2.2.2.2.2 k

/-- The bus at the boundary: the other masters' writes done, the environment of the step laid ready, no access made. -/
theorem State.boundary_bus (s : State) :
    s.boundary.bus = ({ s.bus with cycles := s.nextInputs.cycles } : Bus).othersWrite s.boundaryWrites := rfl

/-- Where other masters may have the bus, all their writes are made. -/
theorem State.boundaryWrites_of_releases {s : State} (h : s.releasesBus = true) :
    s.boundaryWrites = s.nextInputs.busWrites := if_pos h

/-- Where they may not, none is. -/
theorem State.boundaryWrites_of_holds {s : State} (h : s.releasesBus = false) : s.boundaryWrites = [] := by
  unfold State.boundaryWrites; rw [h]; rfl

/-- Any write made is one that the environment presents. -/
theorem State.boundaryWrites_subset (s : State) : s.boundaryWrites ⊆ s.nextInputs.busWrites := by
  unfold State.boundaryWrites; split <;> simp

/-- The interrupt taken at a boundary, in the words of the statements. -/
theorem State.boundary_request (s : State) :
    s.boundary.request s.nextInputs =
      if s.nmiReady then some .nmi else if s.firqReady then some .firq else if s.irqReady then some .irq else none := by
  obtain ⟨_, _, _, _, ha, hp, _⟩ := s.boundary_fields
  unfold State.request
  rw [ha, hp, State.boundary_flag, State.boundary_flag]
  rfl

/-- A step that neither resets nor halts does the boundary's action. -/
theorem step_of_proceeds {s : State} (h : s.proceeds) : step s = s.boundary.perform (s.boundary.action s.nextInputs) := by
  have hh : s.boundary.halted s.nextInputs = false := by
    unfold State.halted
    rw [s.boundary_fields.1]
    by_cases hr : s.runState = .running
    · simp [h.2 hr]
    · simp [hr]
  unfold step State.stepWith
  rw [h.1]
  change (if s.boundary.halted s.nextInputs = true then _ else _) = _
  rw [hh]
  rfl

/-- The boundary keeps memory's canonical form. -/
theorem State.boundary_wf (s : State) (h : s.mem.wf = true) : s.boundary.mem.wf = true := by
  rw [State.mem, State.boundary_bus]
  exact Bus.othersWrite_wf _ _ h

/-- The boundary makes no access, so BUSY is as it was. -/
theorem State.boundary_busy (s : State) : s.boundary.bus.busy = s.bus.busy := by
  rw [State.boundary_bus]
  simp [Bus.busy]

/-! ## The fetch -/

/-- `t` is `s` after the fetch of the bytes `bs` at its pc, the bytes `done` of the instruction fetched before. -/
def State.Fetched (s t : State) (done bs : List Byte) : Prop :=
  s.Run t (fetches s.pc done bs).reverse [] ∧ Reads s s.pc bs ∧ t.pc = above s.pc bs.length ∧ Keeps s t [.pc] []

theorem State.Fetched.refl (s : State) (done : List Byte) : s.Fetched s done [] :=
  ⟨State.Run.refl rfl, Reads.nil s s.pc, (above_zero _).symm, fun _ _ => rfl, fun _ _ => rfl, by simp [KeepsControl],
    by simp [KeepsPlatform]⟩

theorem State.fetched8_fetched (s : State) (done : List Byte) :
    s.Fetched (s.fetched8 (fetchBusy done)) done [s.readByte s.pc] := by
  refine ⟨(s.didRead_run .fetch (fetchBusy done) s.pc).congr rfl rfl, Reads.single s.pc, rfl, fun r hr => ?_,
    KeepsFlags.of_cc rfl [], by simp [KeepsControl], by simp [KeepsPlatform]⟩
  cases r <;> first | rfl | exact absurd (List.mem_singleton.mpr rfl) hr

theorem Keeps.trans {s t u : State} {rs : List Reg} {fs : List Flag} (h : Keeps s t rs fs) (h' : Keeps t u rs fs) :
    Keeps s u rs fs := by
  obtain ⟨hr, hf, hc, hp⟩ := h
  obtain ⟨hr', hf', hc', hp'⟩ := h'
  exact ⟨fun r m => (hr' r m).trans (hr r m), fun k m => (hf' k m).trans (hf k m),
    ⟨by rw [hc'.1, hc.1]; simp, hc'.2.1.trans hc.2.1, hc'.2.2.trans hc.2.2⟩,
    ⟨hp'.1.trans hp.1, hp'.2.1.trans hp.2.1, hp'.2.2.trans hp.2.2⟩⟩

theorem fetches_append (a : Word) (done bs cs : List Byte) :
    fetches a done (bs ++ cs) = fetches a done bs ++ fetches (above a bs.length) (done ++ bs) cs := by
  induction bs generalizing a done with
  | nil => simp [fetches, above_zero]
  | cons v rest ih =>
    simp only [List.cons_append, fetches, ih, above_succ, List.length_cons, List.append_assoc, List.nil_append]

theorem State.Fetched.trans {s t u : State} {done bs cs : List Byte} (h : s.Fetched t done bs)
    (h' : t.Fetched u (done ++ bs) cs) : s.Fetched u done (bs ++ cs) := by
  obtain ⟨r1, d1, p1, k1⟩ := h
  obtain ⟨r2, d2, p2, k2⟩ := h'
  rw [p1] at r2 d2 p2
  refine ⟨?_, d1.append (Reads.of_run r1 d2), ?_, k1.trans k2⟩
  · rw [fetches_append, List.reverse_append]
    exact r1.trans r2
  · rw [p2, above_above, List.length_append]

/-- BUSY is high for a byte only if another byte of the instruction follows it. -/
theorem fetchBusy_continues {bs : List Byte} (h : fetchBusy bs = true) (v : Byte) :
    (bs ++ [v]).length < (decode (Window.ofList (bs ++ [v]))).size := by
  match bs with
  | [] => simp [fetchBusy] at h
  | [op] =>
    simp only [fetchBusy, List.contains_cons, List.contains_nil, Bool.or_false, Bool.or_eq_true, beq_iff_eq] at h
    rcases h with rfl | rfl | rfl | rfl | rfl | rfl | rfl <;> exact Nat.lt_succ_self 2
  | [page, op] =>
    simp only [fetchBusy, List.contains_cons, List.contains_nil, Bool.or_false, Bool.or_eq_true, Bool.and_eq_true,
      beq_iff_eq] at h
    rcases h with ⟨rfl, rfl | rfl | rfl | rfl⟩ | ⟨rfl, rfl | rfl⟩ <;> exact Nat.lt_succ_self 3
  | _ :: _ :: _ :: _ => simp [fetchBusy] at h

/-- A fetch brings bytes one by one as long as those there belong to something longer, and no further. -/
theorem State.fetchMore_spec (s : State) (bs : List Byte) (n : Nat) :
    ∃ more t, s.fetchMore bs n = (bs ++ more, t) ∧ s.Fetched t bs more ∧ more.length ≤ n ∧
      (more.length = n ∨ (decode (Window.ofList (bs ++ more))).size ≤ bs.length + more.length) ∧
      ∀ i, i < more.length → bs.length + i < (decode (Window.ofList (bs ++ more.take i))).size := by
  induction n generalizing s bs with
  | zero => exact ⟨[], s, by simp [State.fetchMore], State.Fetched.refl s bs, by simp, Or.inl rfl, by simp⟩
  | succ n ih =>
    unfold State.fetchMore
    split
    · next hlt =>
      obtain ⟨more, t, he, hf, hl, hd, hi⟩ := ih (s.fetched8 (fetchBusy bs)) (bs ++ [s.readByte s.pc])
      refine ⟨s.readByte s.pc :: more, t, by simpa using he, (s.fetched8_fetched bs).trans hf, by simp [hl], ?_, ?_⟩
      · rcases hd with hd | hd
        · exact Or.inl (by simp [hd])
        · exact Or.inr (by simpa [Nat.add_assoc, Nat.add_comm, Nat.add_left_comm] using hd)
      · intro i hlt'
        cases i with
        | zero => simpa using hlt
        | succ j =>
          have := hi j (by simpa using hlt')
          simpa [Nat.add_assoc, Nat.add_comm] using this
    · next hlt => exact ⟨[], s, by simp, State.Fetched.refl s bs, by simp, Or.inr (by simpa using hlt), by simp⟩

/-- The bytes fetched for an instruction are its own, no more and no fewer, and BUSY is low when they are there. -/
theorem State.fetch_spec (s : State) :
    s.Fetched s.fetch.2 [] s.fetch.1 ∧
      ∀ i n, decode (Window.ofList s.fetch.1) = .instr i n →
        s.fetch.1.length = n ∧ (s.bus.busy = false → s.fetch.2.bus.busy = false) := by
  obtain ⟨more, t, he, hf, hl, hd, hi⟩ := s.fetchMore_spec [] 5
  have e : s.fetch = (more, t) := by simpa [State.fetch] using he
  rw [e]
  refine ⟨hf, fun i n h => ?_⟩
  have hn := decode_length h
  simp only [List.nil_append, List.length_nil, Nat.zero_add] at hd hi
  simp only at h ⊢
  rw [h] at hd
  simp only [Decoded.size] at hd
  have hlen : more.length = n := by
    refine Nat.le_antisymm (Nat.le_of_not_lt fun hlt => ?_) (by omega)
    have hi' := hi n hlt
    suffices hs : decode (Window.ofList (more.take n)) = .instr i n by rw [hs] at hi'; simp [Decoded.size] at hi'
    have hg : ∀ j, j + 1 ≤ n → (more.take n).getD j 0 = more.getD j 0 := fun j hj => by
      simp [List.getD, Nat.lt_of_succ_le hj]
    exact (decode_prefix h (hg 0) (hg 1) (hg 2) (hg 3) (hg 4)).2
  refine ⟨hlen, fun hb => hf.1.busy hb fun x hx => ?_⟩
  rcases List.eq_nil_or_concat more with rfl | ⟨init, v, rfl⟩
  · simp [fetches] at hx
  · rw [List.concat_eq_append] at *
    rw [fetches_append, List.reverse_append] at hx
    simp only [fetches, List.nil_append, List.reverse_singleton, List.cons_append, List.head?_cons,
      Option.some.injEq] at hx
    rw [← hx]
    by_contra hc
    have hcont := fetchBusy_continues (by simpa using hc) v
    rw [h, hlen] at hcont
    exact absurd hcont (by simp [Decoded.size])

end Sys2Proof.Machine
end

