-- ==== Sys2Proof/Laws/PerInstr.lean ====
section
/-! SUPPORT. Statements made instruction by instruction. -/

namespace Sys2Proof.Laws.EncodeLength

/-- An instruction is one to five bytes long (30_encoding.md R81). -/
def Statement (i : Instr) : Prop := 1 ≤ (encode i).length ∧ (encode i).length ≤ 5

theorem short {i : Instr} (h : (Nat.ble 1 (encode i).length && Nat.ble (encode i).length 5) = true) : Statement i :=
  have h' := (Bool.and_eq_true _ _).mp h
  ⟨Nat.le_of_ble_eq_true h'.1, Nat.le_of_ble_eq_true h'.2⟩

theorem indexed {i : Instr} {ix : Idx} (n : Nat) (h : (encode i).length = (encodeIdx ix).length + n) (hn : n ≤ 2) :
    Statement i := by
  have := encodeIdx_length ix
  exact ⟨by omega, by omega⟩

theorem negDir (d : Byte) : Statement (.negDir d) := short rfl
theorem comDir (d : Byte) : Statement (.comDir d) := short rfl
theorem lsrDir (d : Byte) : Statement (.lsrDir d) := short rfl
theorem rorDir (d : Byte) : Statement (.rorDir d) := short rfl
theorem asrDir (d : Byte) : Statement (.asrDir d) := short rfl
theorem aslDir (d : Byte) : Statement (.aslDir d) := short rfl
theorem rolDir (d : Byte) : Statement (.rolDir d) := short rfl
theorem decDir (d : Byte) : Statement (.decDir d) := short rfl
theorem incDir (d : Byte) : Statement (.incDir d) := short rfl
theorem tstDir (d : Byte) : Statement (.tstDir d) := short rfl
theorem jmpDir (d : Byte) : Statement (.jmpDir d) := short rfl
theorem clrDir (d : Byte) : Statement (.clrDir d) := short rfl
theorem lbra (o : Word) : Statement (.lbra o) := short rfl
theorem lbsr (o : Word) : Statement (.lbsr o) := short rfl
theorem orcc (m : Byte) : Statement (.orcc m) := short rfl
theorem andcc (m : Byte) : Statement (.andcc m) := short rfl
theorem exg (r1 r2 : XReg) : Statement (.exg r1 r2) := short rfl
theorem tfr (r1 r2 : XReg) : Statement (.tfr r1 r2) := short rfl
theorem bra (o : Byte) : Statement (.bra o) := short rfl
theorem brn (o : Byte) : Statement (.brn o) := short rfl
theorem bhi (o : Byte) : Statement (.bhi o) := short rfl
theorem bls (o : Byte) : Statement (.bls o) := short rfl
theorem bcc (o : Byte) : Statement (.bcc o) := short rfl
theorem bcs (o : Byte) : Statement (.bcs o) := short rfl
theorem bne (o : Byte) : Statement (.bne o) := short rfl
theorem beq (o : Byte) : Statement (.beq o) := short rfl
theorem bvc (o : Byte) : Statement (.bvc o) := short rfl
theorem bvs (o : Byte) : Statement (.bvs o) := short rfl
theorem bpl (o : Byte) : Statement (.bpl o) := short rfl
theorem bmi (o : Byte) : Statement (.bmi o) := short rfl
theorem bge (o : Byte) : Statement (.bge o) := short rfl
theorem blt (o : Byte) : Statement (.blt o) := short rfl
theorem bgt (o : Byte) : Statement (.bgt o) := short rfl
theorem ble (o : Byte) : Statement (.ble o) := short rfl
theorem leax (ix : Idx) : Statement (.leax ix) := indexed (ix := ix) 1 rfl (by decide)
theorem leay (ix : Idx) : Statement (.leay ix) := indexed (ix := ix) 1 rfl (by decide)
theorem leas (ix : Idx) : Statement (.leas ix) := indexed (ix := ix) 1 rfl (by decide)
theorem leau (ix : Idx) : Statement (.leau ix) := indexed (ix := ix) 1 rfl (by decide)
theorem pshs (l : RegList) : Statement (.pshs l) := short rfl
theorem puls (l : RegList) : Statement (.puls l) := short rfl
theorem pshu (l : RegList) : Statement (.pshu l) := short rfl
theorem pulu (l : RegList) : Statement (.pulu l) := short rfl
theorem cwai (m : Byte) : Statement (.cwai m) := short rfl
theorem negIdx (ix : Idx) : Statement (.negIdx ix) := indexed (ix := ix) 1 rfl (by decide)
theorem comIdx (ix : Idx) : Statement (.comIdx ix) := indexed (ix := ix) 1 rfl (by decide)
theorem lsrIdx (ix : Idx) : Statement (.lsrIdx ix) := indexed (ix := ix) 1 rfl (by decide)
theorem rorIdx (ix : Idx) : Statement (.rorIdx ix) := indexed (ix := ix) 1 rfl (by decide)
theorem asrIdx (ix : Idx) : Statement (.asrIdx ix) := indexed (ix := ix) 1 rfl (by decide)
theorem aslIdx (ix : Idx) : Statement (.aslIdx ix) := indexed (ix := ix) 1 rfl (by decide)
theorem rolIdx (ix : Idx) : Statement (.rolIdx ix) := indexed (ix := ix) 1 rfl (by decide)
theorem decIdx (ix : Idx) : Statement (.decIdx ix) := indexed (ix := ix) 1 rfl (by decide)
theorem incIdx (ix : Idx) : Statement (.incIdx ix) := indexed (ix := ix) 1 rfl (by decide)
theorem tstIdx (ix : Idx) : Statement (.tstIdx ix) := indexed (ix := ix) 1 rfl (by decide)
theorem jmpIdx (ix : Idx) : Statement (.jmpIdx ix) := indexed (ix := ix) 1 rfl (by decide)
theorem clrIdx (ix : Idx) : Statement (.clrIdx ix) := indexed (ix := ix) 1 rfl (by decide)
theorem negExt (a : Word) : Statement (.negExt a) := short rfl
theorem comExt (a : Word) : Statement (.comExt a) := short rfl
theorem lsrExt (a : Word) : Statement (.lsrExt a) := short rfl
theorem rorExt (a : Word) : Statement (.rorExt a) := short rfl
theorem asrExt (a : Word) : Statement (.asrExt a) := short rfl
theorem aslExt (a : Word) : Statement (.aslExt a) := short rfl
theorem rolExt (a : Word) : Statement (.rolExt a) := short rfl
theorem decExt (a : Word) : Statement (.decExt a) := short rfl
theorem incExt (a : Word) : Statement (.incExt a) := short rfl
theorem tstExt (a : Word) : Statement (.tstExt a) := short rfl
theorem jmpExt (a : Word) : Statement (.jmpExt a) := short rfl
theorem clrExt (a : Word) : Statement (.clrExt a) := short rfl
theorem subaImm (m : Byte) : Statement (.subaImm m) := short rfl
theorem cmpaImm (m : Byte) : Statement (.cmpaImm m) := short rfl
theorem sbcaImm (m : Byte) : Statement (.sbcaImm m) := short rfl
theorem subdImm (m : Word) : Statement (.subdImm m) := short rfl
theorem andaImm (m : Byte) : Statement (.andaImm m) := short rfl
theorem bitaImm (m : Byte) : Statement (.bitaImm m) := short rfl
theorem ldaImm (m : Byte) : Statement (.ldaImm m) := short rfl
theorem eoraImm (m : Byte) : Statement (.eoraImm m) := short rfl
theorem adcaImm (m : Byte) : Statement (.adcaImm m) := short rfl
theorem oraImm (m : Byte) : Statement (.oraImm m) := short rfl
theorem addaImm (m : Byte) : Statement (.addaImm m) := short rfl
theorem cmpxImm (m : Word) : Statement (.cmpxImm m) := short rfl
theorem bsr (o : Byte) : Statement (.bsr o) := short rfl
theorem ldxImm (m : Word) : Statement (.ldxImm m) := short rfl
theorem subaDir (d : Byte) : Statement (.subaDir d) := short rfl
theorem cmpaDir (d : Byte) : Statement (.cmpaDir d) := short rfl
theorem sbcaDir (d : Byte) : Statement (.sbcaDir d) := short rfl
theorem subdDir (d : Byte) : Statement (.subdDir d) := short rfl
theorem andaDir (d : Byte) : Statement (.andaDir d) := short rfl
theorem bitaDir (d : Byte) : Statement (.bitaDir d) := short rfl
theorem ldaDir (d : Byte) : Statement (.ldaDir d) := short rfl
theorem staDir (d : Byte) : Statement (.staDir d) := short rfl
theorem eoraDir (d : Byte) : Statement (.eoraDir d) := short rfl
theorem adcaDir (d : Byte) : Statement (.adcaDir d) := short rfl
theorem oraDir (d : Byte) : Statement (.oraDir d) := short rfl
theorem addaDir (d : Byte) : Statement (.addaDir d) := short rfl
theorem cmpxDir (d : Byte) : Statement (.cmpxDir d) := short rfl
theorem jsrDir (d : Byte) : Statement (.jsrDir d) := short rfl
theorem ldxDir (d : Byte) : Statement (.ldxDir d) := short rfl
theorem stxDir (d : Byte) : Statement (.stxDir d) := short rfl
theorem subaIdx (ix : Idx) : Statement (.subaIdx ix) := indexed (ix := ix) 1 rfl (by decide)
theorem cmpaIdx (ix : Idx) : Statement (.cmpaIdx ix) := indexed (ix := ix) 1 rfl (by decide)
theorem sbcaIdx (ix : Idx) : Statement (.sbcaIdx ix) := indexed (ix := ix) 1 rfl (by decide)
theorem subdIdx (ix : Idx) : Statement (.subdIdx ix) := indexed (ix := ix) 1 rfl (by decide)
theorem andaIdx (ix : Idx) : Statement (.andaIdx ix) := indexed (ix := ix) 1 rfl (by decide)
theorem bitaIdx (ix : Idx) : Statement (.bitaIdx ix) := indexed (ix := ix) 1 rfl (by decide)
theorem ldaIdx (ix : Idx) : Statement (.ldaIdx ix) := indexed (ix := ix) 1 rfl (by decide)
theorem staIdx (ix : Idx) : Statement (.staIdx ix) := indexed (ix := ix) 1 rfl (by decide)
theorem eoraIdx (ix : Idx) : Statement (.eoraIdx ix) := indexed (ix := ix) 1 rfl (by decide)
theorem adcaIdx (ix : Idx) : Statement (.adcaIdx ix) := indexed (ix := ix) 1 rfl (by decide)
theorem oraIdx (ix : Idx) : Statement (.oraIdx ix) := indexed (ix := ix) 1 rfl (by decide)
theorem addaIdx (ix : Idx) : Statement (.addaIdx ix) := indexed (ix := ix) 1 rfl (by decide)
theorem cmpxIdx (ix : Idx) : Statement (.cmpxIdx ix) := indexed (ix := ix) 1 rfl (by decide)
theorem jsrIdx (ix : Idx) : Statement (.jsrIdx ix) := indexed (ix := ix) 1 rfl (by decide)
theorem ldxIdx (ix : Idx) : Statement (.ldxIdx ix) := indexed (ix := ix) 1 rfl (by decide)
theorem stxIdx (ix : Idx) : Statement (.stxIdx ix) := indexed (ix := ix) 1 rfl (by decide)
theorem subaExt (a : Word) : Statement (.subaExt a) := short rfl
theorem cmpaExt (a : Word) : Statement (.cmpaExt a) := short rfl
theorem sbcaExt (a : Word) : Statement (.sbcaExt a) := short rfl
theorem subdExt (a : Word) : Statement (.subdExt a) := short rfl
theorem andaExt (a : Word) : Statement (.andaExt a) := short rfl
theorem bitaExt (a : Word) : Statement (.bitaExt a) := short rfl
theorem ldaExt (a : Word) : Statement (.ldaExt a) := short rfl
theorem staExt (a : Word) : Statement (.staExt a) := short rfl
theorem eoraExt (a : Word) : Statement (.eoraExt a) := short rfl
theorem adcaExt (a : Word) : Statement (.adcaExt a) := short rfl
theorem oraExt (a : Word) : Statement (.oraExt a) := short rfl
theorem addaExt (a : Word) : Statement (.addaExt a) := short rfl
theorem cmpxExt (a : Word) : Statement (.cmpxExt a) := short rfl
theorem jsrExt (a : Word) : Statement (.jsrExt a) := short rfl
theorem ldxExt (a : Word) : Statement (.ldxExt a) := short rfl
theorem stxExt (a : Word) : Statement (.stxExt a) := short rfl
theorem subbImm (m : Byte) : Statement (.subbImm m) := short rfl
theorem cmpbImm (m : Byte) : Statement (.cmpbImm m) := short rfl
theorem sbcbImm (m : Byte) : Statement (.sbcbImm m) := short rfl
theorem adddImm (m : Word) : Statement (.adddImm m) := short rfl
theorem andbImm (m : Byte) : Statement (.andbImm m) := short rfl
theorem bitbImm (m : Byte) : Statement (.bitbImm m) := short rfl
theorem ldbImm (m : Byte) : Statement (.ldbImm m) := short rfl
theorem eorbImm (m : Byte) : Statement (.eorbImm m) := short rfl
theorem adcbImm (m : Byte) : Statement (.adcbImm m) := short rfl
theorem orbImm (m : Byte) : Statement (.orbImm m) := short rfl
theorem addbImm (m : Byte) : Statement (.addbImm m) := short rfl
theorem lddImm (m : Word) : Statement (.lddImm m) := short rfl
theorem lduImm (m : Word) : Statement (.lduImm m) := short rfl
theorem subbDir (d : Byte) : Statement (.subbDir d) := short rfl
theorem cmpbDir (d : Byte) : Statement (.cmpbDir d) := short rfl
theorem sbcbDir (d : Byte) : Statement (.sbcbDir d) := short rfl
theorem adddDir (d : Byte) : Statement (.adddDir d) := short rfl
theorem andbDir (d : Byte) : Statement (.andbDir d) := short rfl
theorem bitbDir (d : Byte) : Statement (.bitbDir d) := short rfl
theorem ldbDir (d : Byte) : Statement (.ldbDir d) := short rfl
theorem stbDir (d : Byte) : Statement (.stbDir d) := short rfl
theorem eorbDir (d : Byte) : Statement (.eorbDir d) := short rfl
theorem adcbDir (d : Byte) : Statement (.adcbDir d) := short rfl
theorem orbDir (d : Byte) : Statement (.orbDir d) := short rfl
theorem addbDir (d : Byte) : Statement (.addbDir d) := short rfl
theorem lddDir (d : Byte) : Statement (.lddDir d) := short rfl
theorem stdDir (d : Byte) : Statement (.stdDir d) := short rfl
theorem lduDir (d : Byte) : Statement (.lduDir d) := short rfl
theorem stuDir (d : Byte) : Statement (.stuDir d) := short rfl
theorem subbIdx (ix : Idx) : Statement (.subbIdx ix) := indexed (ix := ix) 1 rfl (by decide)
theorem cmpbIdx (ix : Idx) : Statement (.cmpbIdx ix) := indexed (ix := ix) 1 rfl (by decide)
theorem sbcbIdx (ix : Idx) : Statement (.sbcbIdx ix) := indexed (ix := ix) 1 rfl (by decide)
theorem adddIdx (ix : Idx) : Statement (.adddIdx ix) := indexed (ix := ix) 1 rfl (by decide)
theorem andbIdx (ix : Idx) : Statement (.andbIdx ix) := indexed (ix := ix) 1 rfl (by decide)
theorem bitbIdx (ix : Idx) : Statement (.bitbIdx ix) := indexed (ix := ix) 1 rfl (by decide)
theorem ldbIdx (ix : Idx) : Statement (.ldbIdx ix) := indexed (ix := ix) 1 rfl (by decide)
theorem stbIdx (ix : Idx) : Statement (.stbIdx ix) := indexed (ix := ix) 1 rfl (by decide)
theorem eorbIdx (ix : Idx) : Statement (.eorbIdx ix) := indexed (ix := ix) 1 rfl (by decide)
theorem adcbIdx (ix : Idx) : Statement (.adcbIdx ix) := indexed (ix := ix) 1 rfl (by decide)
theorem orbIdx (ix : Idx) : Statement (.orbIdx ix) := indexed (ix := ix) 1 rfl (by decide)
theorem addbIdx (ix : Idx) : Statement (.addbIdx ix) := indexed (ix := ix) 1 rfl (by decide)
theorem lddIdx (ix : Idx) : Statement (.lddIdx ix) := indexed (ix := ix) 1 rfl (by decide)
theorem stdIdx (ix : Idx) : Statement (.stdIdx ix) := indexed (ix := ix) 1 rfl (by decide)
theorem lduIdx (ix : Idx) : Statement (.lduIdx ix) := indexed (ix := ix) 1 rfl (by decide)
theorem stuIdx (ix : Idx) : Statement (.stuIdx ix) := indexed (ix := ix) 1 rfl (by decide)
theorem subbExt (a : Word) : Statement (.subbExt a) := short rfl
theorem cmpbExt (a : Word) : Statement (.cmpbExt a) := short rfl
theorem sbcbExt (a : Word) : Statement (.sbcbExt a) := short rfl
theorem adddExt (a : Word) : Statement (.adddExt a) := short rfl
theorem andbExt (a : Word) : Statement (.andbExt a) := short rfl
theorem bitbExt (a : Word) : Statement (.bitbExt a) := short rfl
theorem ldbExt (a : Word) : Statement (.ldbExt a) := short rfl
theorem stbExt (a : Word) : Statement (.stbExt a) := short rfl
theorem eorbExt (a : Word) : Statement (.eorbExt a) := short rfl
theorem adcbExt (a : Word) : Statement (.adcbExt a) := short rfl
theorem orbExt (a : Word) : Statement (.orbExt a) := short rfl
theorem addbExt (a : Word) : Statement (.addbExt a) := short rfl
theorem lddExt (a : Word) : Statement (.lddExt a) := short rfl
theorem stdExt (a : Word) : Statement (.stdExt a) := short rfl
theorem lduExt (a : Word) : Statement (.lduExt a) := short rfl
theorem stuExt (a : Word) : Statement (.stuExt a) := short rfl
theorem lbrn (o : Word) : Statement (.lbrn o) := short rfl
theorem lbhi (o : Word) : Statement (.lbhi o) := short rfl
theorem lbls (o : Word) : Statement (.lbls o) := short rfl
theorem lbcc (o : Word) : Statement (.lbcc o) := short rfl
theorem lbcs (o : Word) : Statement (.lbcs o) := short rfl
theorem lbne (o : Word) : Statement (.lbne o) := short rfl
theorem lbeq (o : Word) : Statement (.lbeq o) := short rfl
theorem lbvc (o : Word) : Statement (.lbvc o) := short rfl
theorem lbvs (o : Word) : Statement (.lbvs o) := short rfl
theorem lbpl (o : Word) : Statement (.lbpl o) := short rfl
theorem lbmi (o : Word) : Statement (.lbmi o) := short rfl
theorem lbge (o : Word) : Statement (.lbge o) := short rfl
theorem lblt (o : Word) : Statement (.lblt o) := short rfl
theorem lbgt (o : Word) : Statement (.lbgt o) := short rfl
theorem lble (o : Word) : Statement (.lble o) := short rfl
theorem cmpdImm (m : Word) : Statement (.cmpdImm m) := short rfl
theorem cmpyImm (m : Word) : Statement (.cmpyImm m) := short rfl
theorem ldyImm (m : Word) : Statement (.ldyImm m) := short rfl
theorem cmpdDir (d : Byte) : Statement (.cmpdDir d) := short rfl
theorem cmpyDir (d : Byte) : Statement (.cmpyDir d) := short rfl
theorem ldyDir (d : Byte) : Statement (.ldyDir d) := short rfl
theorem styDir (d : Byte) : Statement (.styDir d) := short rfl
theorem cmpdIdx (ix : Idx) : Statement (.cmpdIdx ix) := indexed (ix := ix) 2 rfl (by decide)
theorem cmpyIdx (ix : Idx) : Statement (.cmpyIdx ix) := indexed (ix := ix) 2 rfl (by decide)
theorem ldyIdx (ix : Idx) : Statement (.ldyIdx ix) := indexed (ix := ix) 2 rfl (by decide)
theorem styIdx (ix : Idx) : Statement (.styIdx ix) := indexed (ix := ix) 2 rfl (by decide)
theorem cmpdExt (a : Word) : Statement (.cmpdExt a) := short rfl
theorem cmpyExt (a : Word) : Statement (.cmpyExt a) := short rfl
theorem ldyExt (a : Word) : Statement (.ldyExt a) := short rfl
theorem styExt (a : Word) : Statement (.styExt a) := short rfl
theorem ldsImm (m : Word) : Statement (.ldsImm m) := short rfl
theorem ldsDir (d : Byte) : Statement (.ldsDir d) := short rfl
theorem stsDir (d : Byte) : Statement (.stsDir d) := short rfl
theorem ldsIdx (ix : Idx) : Statement (.ldsIdx ix) := indexed (ix := ix) 2 rfl (by decide)
theorem stsIdx (ix : Idx) : Statement (.stsIdx ix) := indexed (ix := ix) 2 rfl (by decide)
theorem ldsExt (a : Word) : Statement (.ldsExt a) := short rfl
theorem stsExt (a : Word) : Statement (.stsExt a) := short rfl
theorem cmpuImm (m : Word) : Statement (.cmpuImm m) := short rfl
theorem cmpsImm (m : Word) : Statement (.cmpsImm m) := short rfl
theorem cmpuDir (d : Byte) : Statement (.cmpuDir d) := short rfl
theorem cmpsDir (d : Byte) : Statement (.cmpsDir d) := short rfl
theorem cmpuIdx (ix : Idx) : Statement (.cmpuIdx ix) := indexed (ix := ix) 2 rfl (by decide)
theorem cmpsIdx (ix : Idx) : Statement (.cmpsIdx ix) := indexed (ix := ix) 2 rfl (by decide)
theorem cmpuExt (a : Word) : Statement (.cmpuExt a) := short rfl
theorem cmpsExt (a : Word) : Statement (.cmpsExt a) := short rfl
theorem nop : Statement .nop := short rfl
theorem sync : Statement .sync := short rfl
theorem daa : Statement .daa := short rfl
theorem sex : Statement .sex := short rfl
theorem rts : Statement .rts := short rfl
theorem abx : Statement .abx := short rfl
theorem rti : Statement .rti := short rfl
theorem mul : Statement .mul := short rfl
theorem swi : Statement .swi := short rfl
theorem nega : Statement .nega := short rfl
theorem coma : Statement .coma := short rfl
theorem lsra : Statement .lsra := short rfl
theorem rora : Statement .rora := short rfl
theorem asra : Statement .asra := short rfl
theorem asla : Statement .asla := short rfl
theorem rola : Statement .rola := short rfl
theorem deca : Statement .deca := short rfl
theorem inca : Statement .inca := short rfl
theorem tsta : Statement .tsta := short rfl
theorem clra : Statement .clra := short rfl
theorem negb : Statement .negb := short rfl
theorem comb : Statement .comb := short rfl
theorem lsrb : Statement .lsrb := short rfl
theorem rorb : Statement .rorb := short rfl
theorem asrb : Statement .asrb := short rfl
theorem aslb : Statement .aslb := short rfl
theorem rolb : Statement .rolb := short rfl
theorem decb : Statement .decb := short rfl
theorem incb : Statement .incb := short rfl
theorem tstb : Statement .tstb := short rfl
theorem clrb : Statement .clrb := short rfl
theorem swi2 : Statement .swi2 := short rfl
theorem swi3 : Statement .swi3 := short rfl

end Sys2Proof.Laws.EncodeLength
end

