-- ==== Sys2Proof/Laws/Shape.lean ====
section
/-! SUPPORT. The shape of every meaning: which shared operation it is, and what the lists of Forms say of the instruction.
A statement over all instructions needs one case for each shape, not for each instruction. -/

namespace Sys2Proof.Machine

/-- E, F and I are the same in two values of CC. -/
def KeepsMasks (c d : Byte) : Prop := getFlag d .e = getFlag c .e ∧ getFlag d .f = getFlag c .f ∧ getFlag d .i = getFlag c .i

/-- An instruction of none of the lists: it arms no NMI, writes neither DP nor the whole of CC, is no software interrupt and
does not stop the MPU. -/
def Plain (i : Instr) : Prop :=
  armsNmi i = false ∧ writesDp i = false ∧ writesCc i = false ∧ isSwi i = false ∧ i ≠ .sync ∧ ∀ m, i ≠ .cwai m

theorem aluAdd_keepsMasks : ∀ a m c u, KeepsMasks c (aluAdd a m c u).cc := by
  intro a m c u; simp [KeepsMasks, aluAdd]

theorem aluAdc_keepsMasks : ∀ a m c u, KeepsMasks c (aluAdc a m c u).cc := by
  intro a m c u; simp [KeepsMasks, aluAdc]

theorem aluSub_keepsMasks : ∀ a m c u, KeepsMasks c (aluSub a m c u).cc := by
  intro a m c u; simp [KeepsMasks, aluSub]

theorem aluSbc_keepsMasks : ∀ a m c u, KeepsMasks c (aluSbc a m c u).cc := by
  intro a m c u; simp [KeepsMasks, aluSbc]

theorem aluAnd_keepsMasks : ∀ a m c u, KeepsMasks c (aluAnd a m c u).cc := by
  intro a m c u; simp [KeepsMasks, aluAnd]

theorem aluOr_keepsMasks : ∀ a m c u, KeepsMasks c (aluOr a m c u).cc := by
  intro a m c u; simp [KeepsMasks, aluOr]

theorem aluEor_keepsMasks : ∀ a m c u, KeepsMasks c (aluEor a m c u).cc := by
  intro a m c u; simp [KeepsMasks, aluEor]

theorem aluLd_keepsMasks : ∀ a m c u, KeepsMasks c (aluLd a m c u).cc := by
  intro a m c u; simp [KeepsMasks, aluLd]

theorem aluNeg_keepsMasks : ∀ m c u, KeepsMasks c (aluNeg m c u).cc := by
  intro m c u; simp [KeepsMasks, aluNeg]

theorem aluCom_keepsMasks : ∀ m c u, KeepsMasks c (aluCom m c u).cc := by
  intro m c u; simp [KeepsMasks, aluCom]

theorem aluLsr_keepsMasks : ∀ m c u, KeepsMasks c (aluLsr m c u).cc := by
  intro m c u; simp [KeepsMasks, aluLsr]

theorem aluRor_keepsMasks : ∀ m c u, KeepsMasks c (aluRor m c u).cc := by
  intro m c u; simp [KeepsMasks, aluRor]

theorem aluAsr_keepsMasks : ∀ m c u, KeepsMasks c (aluAsr m c u).cc := by
  intro m c u; simp [KeepsMasks, aluAsr]

theorem aluAsl_keepsMasks : ∀ m c u, KeepsMasks c (aluAsl m c u).cc := by
  intro m c u; simp [KeepsMasks, aluAsl]

theorem aluRol_keepsMasks : ∀ m c u, KeepsMasks c (aluRol m c u).cc := by
  intro m c u; simp [KeepsMasks, aluRol]

theorem aluDec_keepsMasks : ∀ m c u, KeepsMasks c (aluDec m c u).cc := by
  intro m c u; simp [KeepsMasks, aluDec]

theorem aluInc_keepsMasks : ∀ m c u, KeepsMasks c (aluInc m c u).cc := by
  intro m c u; simp [KeepsMasks, aluInc]

theorem aluTst_keepsMasks : ∀ m c u, KeepsMasks c (aluTst m c u).cc := by
  intro m c u; simp [KeepsMasks, aluTst]

theorem aluClr_keepsMasks : ∀ m c u, KeepsMasks c (aluClr m c u).cc := by
  intro m c u; simp [KeepsMasks, aluClr]

theorem aluAdd16_keepsMasks : ∀ a m c, KeepsMasks c (aluAdd16 a m c).cc := by
  intro a m c; simp [KeepsMasks, aluAdd16]

theorem aluSub16_keepsMasks : ∀ a m c, KeepsMasks c (aluSub16 a m c).cc := by
  intro a m c; simp [KeepsMasks, aluSub16]

theorem aluLd16_keepsMasks : ∀ a m c, KeepsMasks c (aluLd16 a m c).cc := by
  intro a m c; simp [KeepsMasks, aluLd16]

/-- The shapes of a meaning. -/
inductive Shape (i : Instr) (s : State) : Prop where
  | accOp {alu : Byte → Byte → Byte → Bool → Out8} {r : Acc} {o : Src8} (keeps : ∀ a m c u, KeepsMasks c (alu a m c u).cc)
      (plain : Plain i) (h : exec i s = Machine.accOp alu r o s)
  | accTest {alu : Byte → Byte → Byte → Bool → Out8} {r : Acc} {o : Src8} (keeps : ∀ a m c u, KeepsMasks c (alu a m c u).cc)
      (plain : Plain i) (h : exec i s = Machine.accTest alu r o s)
  | accStore {r : Acc} {o : Mem} (plain : Plain i) (h : exec i s = Machine.accStore r o s)
  | accModify {alu : Byte → Byte → Bool → Out8} {r : Acc} (keeps : ∀ m c u, KeepsMasks c (alu m c u).cc)
      (plain : Plain i) (h : exec i s = Machine.accModify alu r s)
  | accProbe {alu : Byte → Byte → Bool → Out8} {r : Acc} (keeps : ∀ m c u, KeepsMasks c (alu m c u).cc)
      (plain : Plain i) (h : exec i s = Machine.accProbe alu r s)
  | memModify {alu : Byte → Byte → Bool → Out8} {o : Mem} (keeps : ∀ m c u, KeepsMasks c (alu m c u).cc)
      (plain : Plain i) (h : exec i s = Machine.memModify alu o s)
  | memProbe {alu : Byte → Byte → Bool → Out8} {o : Mem} (keeps : ∀ m c u, KeepsMasks c (alu m c u).cc)
      (plain : Plain i) (h : exec i s = Machine.memProbe alu o s)
  | wideOp {alu : Word → Word → Byte → Out16} {r : Reg16} {o : Src16} (keeps : ∀ a m c, KeepsMasks c (alu a m c).cc)
      (arms : armsNmi i = r.arms) (dp : writesDp i = false) (cc : writesCc i = false) (swi : isSwi i = false)
      (sync : i ≠ .sync) (cwai : ∀ m, i ≠ .cwai m) (h : exec i s = Machine.wideOp alu r o s)
  | wideTest {alu : Word → Word → Byte → Out16} {r : Reg16} {o : Src16} (keeps : ∀ a m c, KeepsMasks c (alu a m c).cc)
      (plain : Plain i) (h : exec i s = Machine.wideTest alu r o s)
  | wideStore {r : Reg16} {o : Mem} (plain : Plain i) (h : exec i s = Machine.wideStore r o s)
  | leaStack {r : Reg16} {ix : Idx} (arms : armsNmi i = r.arms) (dp : writesDp i = false) (cc : writesCc i = false)
      (swi : isSwi i = false) (sync : i ≠ .sync) (cwai : ∀ m, i ≠ .cwai m) (h : exec i s = Machine.leaStack r ix s)
  | leaIndex {r : Reg16} {ix : Idx} (arms : armsNmi i = r.arms) (dp : writesDp i = false) (cc : writesCc i = false)
      (swi : isSwi i = false) (sync : i ≠ .sync) (cwai : ∀ m, i ≠ .cwai m) (h : exec i s = Machine.leaIndex r ix s)
  | branch {k : Cond} {d : Word} (plain : Plain i) (h : exec i s = Machine.branch k d s)
  | branchToSubroutine {d : Word} (plain : Plain i) (h : exec i s = Machine.branchToSubroutine d s)
  | jump {o : Mem} (plain : Plain i) (h : exec i s = Machine.jump o s)
  | jumpToSubroutine {o : Mem} (plain : Plain i) (h : exec i s = Machine.jumpToSubroutine o s)
  | orcc {m : Byte} (e : i = .orcc m)
  | andcc {m : Byte} (e : i = .andcc m)
  | cwai {m : Byte} (e : i = .cwai m)
  | sync (e : i = .sync)
  | nop (e : i = .nop)
  | daa (e : i = .daa)
  | mul (e : i = .mul)
  | sex (e : i = .sex)
  | abx (e : i = .abx)
  | exg {r1 r2 : XReg} (e : i = .exg r1 r2)
  | tfr {r1 r2 : XReg} (e : i = .tfr r1 r2)
  | pshs {l : RegList} (e : i = .pshs l)
  | puls {l : RegList} (e : i = .puls l)
  | pshu {l : RegList} (e : i = .pshu l)
  | pulu {l : RegList} (e : i = .pulu l)
  | rts (e : i = .rts)
  | rti (e : i = .rti)
  | swi (e : i = .swi)
  | swi2 (e : i = .swi2)
  | swi3 (e : i = .swi3)

/-- Every meaning has one of the shapes. -/
theorem exec_shape (i : Instr) (s : State) : Shape i s :=
  match i with
  | .negDir d => .memModify aluNeg_keepsMasks ⟨rfl, rfl, rfl, rfl, nofun, nofun⟩ (rfl : _ = memModify aluNeg (.dir d) s)
  | .comDir d => .memModify aluCom_keepsMasks ⟨rfl, rfl, rfl, rfl, nofun, nofun⟩ (rfl : _ = memModify aluCom (.dir d) s)
  | .lsrDir d => .memModify aluLsr_keepsMasks ⟨rfl, rfl, rfl, rfl, nofun, nofun⟩ (rfl : _ = memModify aluLsr (.dir d) s)
  | .rorDir d => .memModify aluRor_keepsMasks ⟨rfl, rfl, rfl, rfl, nofun, nofun⟩ (rfl : _ = memModify aluRor (.dir d) s)
  | .asrDir d => .memModify aluAsr_keepsMasks ⟨rfl, rfl, rfl, rfl, nofun, nofun⟩ (rfl : _ = memModify aluAsr (.dir d) s)
  | .aslDir d => .memModify aluAsl_keepsMasks ⟨rfl, rfl, rfl, rfl, nofun, nofun⟩ (rfl : _ = memModify aluAsl (.dir d) s)
  | .rolDir d => .memModify aluRol_keepsMasks ⟨rfl, rfl, rfl, rfl, nofun, nofun⟩ (rfl : _ = memModify aluRol (.dir d) s)
  | .decDir d => .memModify aluDec_keepsMasks ⟨rfl, rfl, rfl, rfl, nofun, nofun⟩ (rfl : _ = memModify aluDec (.dir d) s)
  | .incDir d => .memModify aluInc_keepsMasks ⟨rfl, rfl, rfl, rfl, nofun, nofun⟩ (rfl : _ = memModify aluInc (.dir d) s)
  | .tstDir d => .memProbe aluTst_keepsMasks ⟨rfl, rfl, rfl, rfl, nofun, nofun⟩ (rfl : _ = memProbe aluTst (.dir d) s)
  | .jmpDir d => .jump ⟨rfl, rfl, rfl, rfl, nofun, nofun⟩ (rfl : _ = jump (.dir d) s)
  | .clrDir d => .memModify aluClr_keepsMasks ⟨rfl, rfl, rfl, rfl, nofun, nofun⟩ (rfl : _ = memModify aluClr (.dir d) s)
  | .lbra o => .branch ⟨rfl, rfl, rfl, rfl, nofun, nofun⟩ (rfl : _ = branch .always o s)
  | .lbsr o => .branchToSubroutine ⟨rfl, rfl, rfl, rfl, nofun, nofun⟩ (rfl : _ = branchToSubroutine o s)
  | .orcc _ => .orcc rfl
  | .andcc _ => .andcc rfl
  | .exg _ _ => .exg rfl
  | .tfr _ _ => .tfr rfl
  | .bra o => .branch ⟨rfl, rfl, rfl, rfl, nofun, nofun⟩ (rfl : _ = branch .always (sext8 o) s)
  | .brn o => .branch ⟨rfl, rfl, rfl, rfl, nofun, nofun⟩ (rfl : _ = branch .never (sext8 o) s)
  | .bhi o => .branch ⟨rfl, rfl, rfl, rfl, nofun, nofun⟩ (rfl : _ = branch .hi (sext8 o) s)
  | .bls o => .branch ⟨rfl, rfl, rfl, rfl, nofun, nofun⟩ (rfl : _ = branch .ls (sext8 o) s)
  | .bcc o => .branch ⟨rfl, rfl, rfl, rfl, nofun, nofun⟩ (rfl : _ = branch .cc (sext8 o) s)
  | .bcs o => .branch ⟨rfl, rfl, rfl, rfl, nofun, nofun⟩ (rfl : _ = branch .cs (sext8 o) s)
  | .bne o => .branch ⟨rfl, rfl, rfl, rfl, nofun, nofun⟩ (rfl : _ = branch .ne (sext8 o) s)
  | .beq o => .branch ⟨rfl, rfl, rfl, rfl, nofun, nofun⟩ (rfl : _ = branch .eq (sext8 o) s)
  | .bvc o => .branch ⟨rfl, rfl, rfl, rfl, nofun, nofun⟩ (rfl : _ = branch .vc (sext8 o) s)
  | .bvs o => .branch ⟨rfl, rfl, rfl, rfl, nofun, nofun⟩ (rfl : _ = branch .vs (sext8 o) s)
  | .bpl o => .branch ⟨rfl, rfl, rfl, rfl, nofun, nofun⟩ (rfl : _ = branch .pl (sext8 o) s)
  | .bmi o => .branch ⟨rfl, rfl, rfl, rfl, nofun, nofun⟩ (rfl : _ = branch .mi (sext8 o) s)
  | .bge o => .branch ⟨rfl, rfl, rfl, rfl, nofun, nofun⟩ (rfl : _ = branch .ge (sext8 o) s)
  | .blt o => .branch ⟨rfl, rfl, rfl, rfl, nofun, nofun⟩ (rfl : _ = branch .lt (sext8 o) s)
  | .bgt o => .branch ⟨rfl, rfl, rfl, rfl, nofun, nofun⟩ (rfl : _ = branch .gt (sext8 o) s)
  | .ble o => .branch ⟨rfl, rfl, rfl, rfl, nofun, nofun⟩ (rfl : _ = branch .le (sext8 o) s)
  | .leax ix => .leaIndex rfl rfl rfl rfl nofun nofun (rfl : _ = leaIndex .x ix s)
  | .leay ix => .leaIndex rfl rfl rfl rfl nofun nofun (rfl : _ = leaIndex .y ix s)
  | .leas ix => .leaStack rfl rfl rfl rfl nofun nofun (rfl : _ = leaStack .s ix s)
  | .leau ix => .leaStack rfl rfl rfl rfl nofun nofun (rfl : _ = leaStack .u ix s)
  | .pshs _ => .pshs rfl
  | .puls _ => .puls rfl
  | .pshu _ => .pshu rfl
  | .pulu _ => .pulu rfl
  | .cwai _ => .cwai rfl
  | .negIdx ix => .memModify aluNeg_keepsMasks ⟨rfl, rfl, rfl, rfl, nofun, nofun⟩ (rfl : _ = memModify aluNeg (.idx ix) s)
  | .comIdx ix => .memModify aluCom_keepsMasks ⟨rfl, rfl, rfl, rfl, nofun, nofun⟩ (rfl : _ = memModify aluCom (.idx ix) s)
  | .lsrIdx ix => .memModify aluLsr_keepsMasks ⟨rfl, rfl, rfl, rfl, nofun, nofun⟩ (rfl : _ = memModify aluLsr (.idx ix) s)
  | .rorIdx ix => .memModify aluRor_keepsMasks ⟨rfl, rfl, rfl, rfl, nofun, nofun⟩ (rfl : _ = memModify aluRor (.idx ix) s)
  | .asrIdx ix => .memModify aluAsr_keepsMasks ⟨rfl, rfl, rfl, rfl, nofun, nofun⟩ (rfl : _ = memModify aluAsr (.idx ix) s)
  | .aslIdx ix => .memModify aluAsl_keepsMasks ⟨rfl, rfl, rfl, rfl, nofun, nofun⟩ (rfl : _ = memModify aluAsl (.idx ix) s)
  | .rolIdx ix => .memModify aluRol_keepsMasks ⟨rfl, rfl, rfl, rfl, nofun, nofun⟩ (rfl : _ = memModify aluRol (.idx ix) s)
  | .decIdx ix => .memModify aluDec_keepsMasks ⟨rfl, rfl, rfl, rfl, nofun, nofun⟩ (rfl : _ = memModify aluDec (.idx ix) s)
  | .incIdx ix => .memModify aluInc_keepsMasks ⟨rfl, rfl, rfl, rfl, nofun, nofun⟩ (rfl : _ = memModify aluInc (.idx ix) s)
  | .tstIdx ix => .memProbe aluTst_keepsMasks ⟨rfl, rfl, rfl, rfl, nofun, nofun⟩ (rfl : _ = memProbe aluTst (.idx ix) s)
  | .jmpIdx ix => .jump ⟨rfl, rfl, rfl, rfl, nofun, nofun⟩ (rfl : _ = jump (.idx ix) s)
  | .clrIdx ix => .memModify aluClr_keepsMasks ⟨rfl, rfl, rfl, rfl, nofun, nofun⟩ (rfl : _ = memModify aluClr (.idx ix) s)
  | .negExt a => .memModify aluNeg_keepsMasks ⟨rfl, rfl, rfl, rfl, nofun, nofun⟩ (rfl : _ = memModify aluNeg (.ext a) s)
  | .comExt a => .memModify aluCom_keepsMasks ⟨rfl, rfl, rfl, rfl, nofun, nofun⟩ (rfl : _ = memModify aluCom (.ext a) s)
  | .lsrExt a => .memModify aluLsr_keepsMasks ⟨rfl, rfl, rfl, rfl, nofun, nofun⟩ (rfl : _ = memModify aluLsr (.ext a) s)
  | .rorExt a => .memModify aluRor_keepsMasks ⟨rfl, rfl, rfl, rfl, nofun, nofun⟩ (rfl : _ = memModify aluRor (.ext a) s)
  | .asrExt a => .memModify aluAsr_keepsMasks ⟨rfl, rfl, rfl, rfl, nofun, nofun⟩ (rfl : _ = memModify aluAsr (.ext a) s)
  | .aslExt a => .memModify aluAsl_keepsMasks ⟨rfl, rfl, rfl, rfl, nofun, nofun⟩ (rfl : _ = memModify aluAsl (.ext a) s)
  | .rolExt a => .memModify aluRol_keepsMasks ⟨rfl, rfl, rfl, rfl, nofun, nofun⟩ (rfl : _ = memModify aluRol (.ext a) s)
  | .decExt a => .memModify aluDec_keepsMasks ⟨rfl, rfl, rfl, rfl, nofun, nofun⟩ (rfl : _ = memModify aluDec (.ext a) s)
  | .incExt a => .memModify aluInc_keepsMasks ⟨rfl, rfl, rfl, rfl, nofun, nofun⟩ (rfl : _ = memModify aluInc (.ext a) s)
  | .tstExt a => .memProbe aluTst_keepsMasks ⟨rfl, rfl, rfl, rfl, nofun, nofun⟩ (rfl : _ = memProbe aluTst (.ext a) s)
  | .jmpExt a => .jump ⟨rfl, rfl, rfl, rfl, nofun, nofun⟩ (rfl : _ = jump (.ext a) s)
  | .clrExt a => .memModify aluClr_keepsMasks ⟨rfl, rfl, rfl, rfl, nofun, nofun⟩ (rfl : _ = memModify aluClr (.ext a) s)
  | .subaImm m => .accOp aluSub_keepsMasks ⟨rfl, rfl, rfl, rfl, nofun, nofun⟩ (rfl : _ = accOp aluSub .a (.imm m) s)
  | .cmpaImm m => .accTest aluSub_keepsMasks ⟨rfl, rfl, rfl, rfl, nofun, nofun⟩ (rfl : _ = accTest aluSub .a (.imm m) s)
  | .sbcaImm m => .accOp aluSbc_keepsMasks ⟨rfl, rfl, rfl, rfl, nofun, nofun⟩ (rfl : _ = accOp aluSbc .a (.imm m) s)
  | .subdImm m => .wideOp aluSub16_keepsMasks rfl rfl rfl rfl nofun nofun (rfl : _ = wideOp aluSub16 .d (.imm m) s)
  | .andaImm m => .accOp aluAnd_keepsMasks ⟨rfl, rfl, rfl, rfl, nofun, nofun⟩ (rfl : _ = accOp aluAnd .a (.imm m) s)
  | .bitaImm m => .accTest aluAnd_keepsMasks ⟨rfl, rfl, rfl, rfl, nofun, nofun⟩ (rfl : _ = accTest aluAnd .a (.imm m) s)
  | .ldaImm m => .accOp aluLd_keepsMasks ⟨rfl, rfl, rfl, rfl, nofun, nofun⟩ (rfl : _ = accOp aluLd .a (.imm m) s)
  | .eoraImm m => .accOp aluEor_keepsMasks ⟨rfl, rfl, rfl, rfl, nofun, nofun⟩ (rfl : _ = accOp aluEor .a (.imm m) s)
  | .adcaImm m => .accOp aluAdc_keepsMasks ⟨rfl, rfl, rfl, rfl, nofun, nofun⟩ (rfl : _ = accOp aluAdc .a (.imm m) s)
  | .oraImm m => .accOp aluOr_keepsMasks ⟨rfl, rfl, rfl, rfl, nofun, nofun⟩ (rfl : _ = accOp aluOr .a (.imm m) s)
  | .addaImm m => .accOp aluAdd_keepsMasks ⟨rfl, rfl, rfl, rfl, nofun, nofun⟩ (rfl : _ = accOp aluAdd .a (.imm m) s)
  | .cmpxImm m => .wideTest aluSub16_keepsMasks ⟨rfl, rfl, rfl, rfl, nofun, nofun⟩ (rfl : _ = wideTest aluSub16 .x (.imm m) s)
  | .bsr o => .branchToSubroutine ⟨rfl, rfl, rfl, rfl, nofun, nofun⟩ (rfl : _ = branchToSubroutine (sext8 o) s)
  | .ldxImm m => .wideOp aluLd16_keepsMasks rfl rfl rfl rfl nofun nofun (rfl : _ = wideOp aluLd16 .x (.imm m) s)
  | .subaDir d => .accOp aluSub_keepsMasks ⟨rfl, rfl, rfl, rfl, nofun, nofun⟩ (rfl : _ = accOp aluSub .a (.mem (.dir d)) s)
  | .cmpaDir d => .accTest aluSub_keepsMasks ⟨rfl, rfl, rfl, rfl, nofun, nofun⟩ (rfl : _ = accTest aluSub .a (.mem (.dir d)) s)
  | .sbcaDir d => .accOp aluSbc_keepsMasks ⟨rfl, rfl, rfl, rfl, nofun, nofun⟩ (rfl : _ = accOp aluSbc .a (.mem (.dir d)) s)
  | .subdDir d => .wideOp aluSub16_keepsMasks rfl rfl rfl rfl nofun nofun (rfl : _ = wideOp aluSub16 .d (.mem (.dir d)) s)
  | .andaDir d => .accOp aluAnd_keepsMasks ⟨rfl, rfl, rfl, rfl, nofun, nofun⟩ (rfl : _ = accOp aluAnd .a (.mem (.dir d)) s)
  | .bitaDir d => .accTest aluAnd_keepsMasks ⟨rfl, rfl, rfl, rfl, nofun, nofun⟩ (rfl : _ = accTest aluAnd .a (.mem (.dir d)) s)
  | .ldaDir d => .accOp aluLd_keepsMasks ⟨rfl, rfl, rfl, rfl, nofun, nofun⟩ (rfl : _ = accOp aluLd .a (.mem (.dir d)) s)
  | .staDir d => .accStore ⟨rfl, rfl, rfl, rfl, nofun, nofun⟩ (rfl : _ = accStore .a (.dir d) s)
  | .eoraDir d => .accOp aluEor_keepsMasks ⟨rfl, rfl, rfl, rfl, nofun, nofun⟩ (rfl : _ = accOp aluEor .a (.mem (.dir d)) s)
  | .adcaDir d => .accOp aluAdc_keepsMasks ⟨rfl, rfl, rfl, rfl, nofun, nofun⟩ (rfl : _ = accOp aluAdc .a (.mem (.dir d)) s)
  | .oraDir d => .accOp aluOr_keepsMasks ⟨rfl, rfl, rfl, rfl, nofun, nofun⟩ (rfl : _ = accOp aluOr .a (.mem (.dir d)) s)
  | .addaDir d => .accOp aluAdd_keepsMasks ⟨rfl, rfl, rfl, rfl, nofun, nofun⟩ (rfl : _ = accOp aluAdd .a (.mem (.dir d)) s)
  | .cmpxDir d => .wideTest aluSub16_keepsMasks ⟨rfl, rfl, rfl, rfl, nofun, nofun⟩ (rfl : _ = wideTest aluSub16 .x (.mem (.dir d)) s)
  | .jsrDir d => .jumpToSubroutine ⟨rfl, rfl, rfl, rfl, nofun, nofun⟩ (rfl : _ = jumpToSubroutine (.dir d) s)
  | .ldxDir d => .wideOp aluLd16_keepsMasks rfl rfl rfl rfl nofun nofun (rfl : _ = wideOp aluLd16 .x (.mem (.dir d)) s)
  | .stxDir d => .wideStore ⟨rfl, rfl, rfl, rfl, nofun, nofun⟩ (rfl : _ = wideStore .x (.dir d) s)
  | .subaIdx ix => .accOp aluSub_keepsMasks ⟨rfl, rfl, rfl, rfl, nofun, nofun⟩ (rfl : _ = accOp aluSub .a (.mem (.idx ix)) s)
  | .cmpaIdx ix => .accTest aluSub_keepsMasks ⟨rfl, rfl, rfl, rfl, nofun, nofun⟩ (rfl : _ = accTest aluSub .a (.mem (.idx ix)) s)
  | .sbcaIdx ix => .accOp aluSbc_keepsMasks ⟨rfl, rfl, rfl, rfl, nofun, nofun⟩ (rfl : _ = accOp aluSbc .a (.mem (.idx ix)) s)
  | .subdIdx ix => .wideOp aluSub16_keepsMasks rfl rfl rfl rfl nofun nofun (rfl : _ = wideOp aluSub16 .d (.mem (.idx ix)) s)
  | .andaIdx ix => .accOp aluAnd_keepsMasks ⟨rfl, rfl, rfl, rfl, nofun, nofun⟩ (rfl : _ = accOp aluAnd .a (.mem (.idx ix)) s)
  | .bitaIdx ix => .accTest aluAnd_keepsMasks ⟨rfl, rfl, rfl, rfl, nofun, nofun⟩ (rfl : _ = accTest aluAnd .a (.mem (.idx ix)) s)
  | .ldaIdx ix => .accOp aluLd_keepsMasks ⟨rfl, rfl, rfl, rfl, nofun, nofun⟩ (rfl : _ = accOp aluLd .a (.mem (.idx ix)) s)
  | .staIdx ix => .accStore ⟨rfl, rfl, rfl, rfl, nofun, nofun⟩ (rfl : _ = accStore .a (.idx ix) s)
  | .eoraIdx ix => .accOp aluEor_keepsMasks ⟨rfl, rfl, rfl, rfl, nofun, nofun⟩ (rfl : _ = accOp aluEor .a (.mem (.idx ix)) s)
  | .adcaIdx ix => .accOp aluAdc_keepsMasks ⟨rfl, rfl, rfl, rfl, nofun, nofun⟩ (rfl : _ = accOp aluAdc .a (.mem (.idx ix)) s)
  | .oraIdx ix => .accOp aluOr_keepsMasks ⟨rfl, rfl, rfl, rfl, nofun, nofun⟩ (rfl : _ = accOp aluOr .a (.mem (.idx ix)) s)
  | .addaIdx ix => .accOp aluAdd_keepsMasks ⟨rfl, rfl, rfl, rfl, nofun, nofun⟩ (rfl : _ = accOp aluAdd .a (.mem (.idx ix)) s)
  | .cmpxIdx ix => .wideTest aluSub16_keepsMasks ⟨rfl, rfl, rfl, rfl, nofun, nofun⟩ (rfl : _ = wideTest aluSub16 .x (.mem (.idx ix)) s)
  | .jsrIdx ix => .jumpToSubroutine ⟨rfl, rfl, rfl, rfl, nofun, nofun⟩ (rfl : _ = jumpToSubroutine (.idx ix) s)
  | .ldxIdx ix => .wideOp aluLd16_keepsMasks rfl rfl rfl rfl nofun nofun (rfl : _ = wideOp aluLd16 .x (.mem (.idx ix)) s)
  | .stxIdx ix => .wideStore ⟨rfl, rfl, rfl, rfl, nofun, nofun⟩ (rfl : _ = wideStore .x (.idx ix) s)
  | .subaExt a => .accOp aluSub_keepsMasks ⟨rfl, rfl, rfl, rfl, nofun, nofun⟩ (rfl : _ = accOp aluSub .a (.mem (.ext a)) s)
  | .cmpaExt a => .accTest aluSub_keepsMasks ⟨rfl, rfl, rfl, rfl, nofun, nofun⟩ (rfl : _ = accTest aluSub .a (.mem (.ext a)) s)
  | .sbcaExt a => .accOp aluSbc_keepsMasks ⟨rfl, rfl, rfl, rfl, nofun, nofun⟩ (rfl : _ = accOp aluSbc .a (.mem (.ext a)) s)
  | .subdExt a => .wideOp aluSub16_keepsMasks rfl rfl rfl rfl nofun nofun (rfl : _ = wideOp aluSub16 .d (.mem (.ext a)) s)
  | .andaExt a => .accOp aluAnd_keepsMasks ⟨rfl, rfl, rfl, rfl, nofun, nofun⟩ (rfl : _ = accOp aluAnd .a (.mem (.ext a)) s)
  | .bitaExt a => .accTest aluAnd_keepsMasks ⟨rfl, rfl, rfl, rfl, nofun, nofun⟩ (rfl : _ = accTest aluAnd .a (.mem (.ext a)) s)
  | .ldaExt a => .accOp aluLd_keepsMasks ⟨rfl, rfl, rfl, rfl, nofun, nofun⟩ (rfl : _ = accOp aluLd .a (.mem (.ext a)) s)
  | .staExt a => .accStore ⟨rfl, rfl, rfl, rfl, nofun, nofun⟩ (rfl : _ = accStore .a (.ext a) s)
  | .eoraExt a => .accOp aluEor_keepsMasks ⟨rfl, rfl, rfl, rfl, nofun, nofun⟩ (rfl : _ = accOp aluEor .a (.mem (.ext a)) s)
  | .adcaExt a => .accOp aluAdc_keepsMasks ⟨rfl, rfl, rfl, rfl, nofun, nofun⟩ (rfl : _ = accOp aluAdc .a (.mem (.ext a)) s)
  | .oraExt a => .accOp aluOr_keepsMasks ⟨rfl, rfl, rfl, rfl, nofun, nofun⟩ (rfl : _ = accOp aluOr .a (.mem (.ext a)) s)
  | .addaExt a => .accOp aluAdd_keepsMasks ⟨rfl, rfl, rfl, rfl, nofun, nofun⟩ (rfl : _ = accOp aluAdd .a (.mem (.ext a)) s)
  | .cmpxExt a => .wideTest aluSub16_keepsMasks ⟨rfl, rfl, rfl, rfl, nofun, nofun⟩ (rfl : _ = wideTest aluSub16 .x (.mem (.ext a)) s)
  | .jsrExt a => .jumpToSubroutine ⟨rfl, rfl, rfl, rfl, nofun, nofun⟩ (rfl : _ = jumpToSubroutine (.ext a) s)
  | .ldxExt a => .wideOp aluLd16_keepsMasks rfl rfl rfl rfl nofun nofun (rfl : _ = wideOp aluLd16 .x (.mem (.ext a)) s)
  | .stxExt a => .wideStore ⟨rfl, rfl, rfl, rfl, nofun, nofun⟩ (rfl : _ = wideStore .x (.ext a) s)
  | .subbImm m => .accOp aluSub_keepsMasks ⟨rfl, rfl, rfl, rfl, nofun, nofun⟩ (rfl : _ = accOp aluSub .b (.imm m) s)
  | .cmpbImm m => .accTest aluSub_keepsMasks ⟨rfl, rfl, rfl, rfl, nofun, nofun⟩ (rfl : _ = accTest aluSub .b (.imm m) s)
  | .sbcbImm m => .accOp aluSbc_keepsMasks ⟨rfl, rfl, rfl, rfl, nofun, nofun⟩ (rfl : _ = accOp aluSbc .b (.imm m) s)
  | .adddImm m => .wideOp aluAdd16_keepsMasks rfl rfl rfl rfl nofun nofun (rfl : _ = wideOp aluAdd16 .d (.imm m) s)
  | .andbImm m => .accOp aluAnd_keepsMasks ⟨rfl, rfl, rfl, rfl, nofun, nofun⟩ (rfl : _ = accOp aluAnd .b (.imm m) s)
  | .bitbImm m => .accTest aluAnd_keepsMasks ⟨rfl, rfl, rfl, rfl, nofun, nofun⟩ (rfl : _ = accTest aluAnd .b (.imm m) s)
  | .ldbImm m => .accOp aluLd_keepsMasks ⟨rfl, rfl, rfl, rfl, nofun, nofun⟩ (rfl : _ = accOp aluLd .b (.imm m) s)
  | .eorbImm m => .accOp aluEor_keepsMasks ⟨rfl, rfl, rfl, rfl, nofun, nofun⟩ (rfl : _ = accOp aluEor .b (.imm m) s)
  | .adcbImm m => .accOp aluAdc_keepsMasks ⟨rfl, rfl, rfl, rfl, nofun, nofun⟩ (rfl : _ = accOp aluAdc .b (.imm m) s)
  | .orbImm m => .accOp aluOr_keepsMasks ⟨rfl, rfl, rfl, rfl, nofun, nofun⟩ (rfl : _ = accOp aluOr .b (.imm m) s)
  | .addbImm m => .accOp aluAdd_keepsMasks ⟨rfl, rfl, rfl, rfl, nofun, nofun⟩ (rfl : _ = accOp aluAdd .b (.imm m) s)
  | .lddImm m => .wideOp aluLd16_keepsMasks rfl rfl rfl rfl nofun nofun (rfl : _ = wideOp aluLd16 .d (.imm m) s)
  | .lduImm m => .wideOp aluLd16_keepsMasks rfl rfl rfl rfl nofun nofun (rfl : _ = wideOp aluLd16 .u (.imm m) s)
  | .subbDir d => .accOp aluSub_keepsMasks ⟨rfl, rfl, rfl, rfl, nofun, nofun⟩ (rfl : _ = accOp aluSub .b (.mem (.dir d)) s)
  | .cmpbDir d => .accTest aluSub_keepsMasks ⟨rfl, rfl, rfl, rfl, nofun, nofun⟩ (rfl : _ = accTest aluSub .b (.mem (.dir d)) s)
  | .sbcbDir d => .accOp aluSbc_keepsMasks ⟨rfl, rfl, rfl, rfl, nofun, nofun⟩ (rfl : _ = accOp aluSbc .b (.mem (.dir d)) s)
  | .adddDir d => .wideOp aluAdd16_keepsMasks rfl rfl rfl rfl nofun nofun (rfl : _ = wideOp aluAdd16 .d (.mem (.dir d)) s)
  | .andbDir d => .accOp aluAnd_keepsMasks ⟨rfl, rfl, rfl, rfl, nofun, nofun⟩ (rfl : _ = accOp aluAnd .b (.mem (.dir d)) s)
  | .bitbDir d => .accTest aluAnd_keepsMasks ⟨rfl, rfl, rfl, rfl, nofun, nofun⟩ (rfl : _ = accTest aluAnd .b (.mem (.dir d)) s)
  | .ldbDir d => .accOp aluLd_keepsMasks ⟨rfl, rfl, rfl, rfl, nofun, nofun⟩ (rfl : _ = accOp aluLd .b (.mem (.dir d)) s)
  | .stbDir d => .accStore ⟨rfl, rfl, rfl, rfl, nofun, nofun⟩ (rfl : _ = accStore .b (.dir d) s)
  | .eorbDir d => .accOp aluEor_keepsMasks ⟨rfl, rfl, rfl, rfl, nofun, nofun⟩ (rfl : _ = accOp aluEor .b (.mem (.dir d)) s)
  | .adcbDir d => .accOp aluAdc_keepsMasks ⟨rfl, rfl, rfl, rfl, nofun, nofun⟩ (rfl : _ = accOp aluAdc .b (.mem (.dir d)) s)
  | .orbDir d => .accOp aluOr_keepsMasks ⟨rfl, rfl, rfl, rfl, nofun, nofun⟩ (rfl : _ = accOp aluOr .b (.mem (.dir d)) s)
  | .addbDir d => .accOp aluAdd_keepsMasks ⟨rfl, rfl, rfl, rfl, nofun, nofun⟩ (rfl : _ = accOp aluAdd .b (.mem (.dir d)) s)
  | .lddDir d => .wideOp aluLd16_keepsMasks rfl rfl rfl rfl nofun nofun (rfl : _ = wideOp aluLd16 .d (.mem (.dir d)) s)
  | .stdDir d => .wideStore ⟨rfl, rfl, rfl, rfl, nofun, nofun⟩ (rfl : _ = wideStore .d (.dir d) s)
  | .lduDir d => .wideOp aluLd16_keepsMasks rfl rfl rfl rfl nofun nofun (rfl : _ = wideOp aluLd16 .u (.mem (.dir d)) s)
  | .stuDir d => .wideStore ⟨rfl, rfl, rfl, rfl, nofun, nofun⟩ (rfl : _ = wideStore .u (.dir d) s)
  | .subbIdx ix => .accOp aluSub_keepsMasks ⟨rfl, rfl, rfl, rfl, nofun, nofun⟩ (rfl : _ = accOp aluSub .b (.mem (.idx ix)) s)
  | .cmpbIdx ix => .accTest aluSub_keepsMasks ⟨rfl, rfl, rfl, rfl, nofun, nofun⟩ (rfl : _ = accTest aluSub .b (.mem (.idx ix)) s)
  | .sbcbIdx ix => .accOp aluSbc_keepsMasks ⟨rfl, rfl, rfl, rfl, nofun, nofun⟩ (rfl : _ = accOp aluSbc .b (.mem (.idx ix)) s)
  | .adddIdx ix => .wideOp aluAdd16_keepsMasks rfl rfl rfl rfl nofun nofun (rfl : _ = wideOp aluAdd16 .d (.mem (.idx ix)) s)
  | .andbIdx ix => .accOp aluAnd_keepsMasks ⟨rfl, rfl, rfl, rfl, nofun, nofun⟩ (rfl : _ = accOp aluAnd .b (.mem (.idx ix)) s)
  | .bitbIdx ix => .accTest aluAnd_keepsMasks ⟨rfl, rfl, rfl, rfl, nofun, nofun⟩ (rfl : _ = accTest aluAnd .b (.mem (.idx ix)) s)
  | .ldbIdx ix => .accOp aluLd_keepsMasks ⟨rfl, rfl, rfl, rfl, nofun, nofun⟩ (rfl : _ = accOp aluLd .b (.mem (.idx ix)) s)
  | .stbIdx ix => .accStore ⟨rfl, rfl, rfl, rfl, nofun, nofun⟩ (rfl : _ = accStore .b (.idx ix) s)
  | .eorbIdx ix => .accOp aluEor_keepsMasks ⟨rfl, rfl, rfl, rfl, nofun, nofun⟩ (rfl : _ = accOp aluEor .b (.mem (.idx ix)) s)
  | .adcbIdx ix => .accOp aluAdc_keepsMasks ⟨rfl, rfl, rfl, rfl, nofun, nofun⟩ (rfl : _ = accOp aluAdc .b (.mem (.idx ix)) s)
  | .orbIdx ix => .accOp aluOr_keepsMasks ⟨rfl, rfl, rfl, rfl, nofun, nofun⟩ (rfl : _ = accOp aluOr .b (.mem (.idx ix)) s)
  | .addbIdx ix => .accOp aluAdd_keepsMasks ⟨rfl, rfl, rfl, rfl, nofun, nofun⟩ (rfl : _ = accOp aluAdd .b (.mem (.idx ix)) s)
  | .lddIdx ix => .wideOp aluLd16_keepsMasks rfl rfl rfl rfl nofun nofun (rfl : _ = wideOp aluLd16 .d (.mem (.idx ix)) s)
  | .stdIdx ix => .wideStore ⟨rfl, rfl, rfl, rfl, nofun, nofun⟩ (rfl : _ = wideStore .d (.idx ix) s)
  | .lduIdx ix => .wideOp aluLd16_keepsMasks rfl rfl rfl rfl nofun nofun (rfl : _ = wideOp aluLd16 .u (.mem (.idx ix)) s)
  | .stuIdx ix => .wideStore ⟨rfl, rfl, rfl, rfl, nofun, nofun⟩ (rfl : _ = wideStore .u (.idx ix) s)
  | .subbExt a => .accOp aluSub_keepsMasks ⟨rfl, rfl, rfl, rfl, nofun, nofun⟩ (rfl : _ = accOp aluSub .b (.mem (.ext a)) s)
  | .cmpbExt a => .accTest aluSub_keepsMasks ⟨rfl, rfl, rfl, rfl, nofun, nofun⟩ (rfl : _ = accTest aluSub .b (.mem (.ext a)) s)
  | .sbcbExt a => .accOp aluSbc_keepsMasks ⟨rfl, rfl, rfl, rfl, nofun, nofun⟩ (rfl : _ = accOp aluSbc .b (.mem (.ext a)) s)
  | .adddExt a => .wideOp aluAdd16_keepsMasks rfl rfl rfl rfl nofun nofun (rfl : _ = wideOp aluAdd16 .d (.mem (.ext a)) s)
  | .andbExt a => .accOp aluAnd_keepsMasks ⟨rfl, rfl, rfl, rfl, nofun, nofun⟩ (rfl : _ = accOp aluAnd .b (.mem (.ext a)) s)
  | .bitbExt a => .accTest aluAnd_keepsMasks ⟨rfl, rfl, rfl, rfl, nofun, nofun⟩ (rfl : _ = accTest aluAnd .b (.mem (.ext a)) s)
  | .ldbExt a => .accOp aluLd_keepsMasks ⟨rfl, rfl, rfl, rfl, nofun, nofun⟩ (rfl : _ = accOp aluLd .b (.mem (.ext a)) s)
  | .stbExt a => .accStore ⟨rfl, rfl, rfl, rfl, nofun, nofun⟩ (rfl : _ = accStore .b (.ext a) s)
  | .eorbExt a => .accOp aluEor_keepsMasks ⟨rfl, rfl, rfl, rfl, nofun, nofun⟩ (rfl : _ = accOp aluEor .b (.mem (.ext a)) s)
  | .adcbExt a => .accOp aluAdc_keepsMasks ⟨rfl, rfl, rfl, rfl, nofun, nofun⟩ (rfl : _ = accOp aluAdc .b (.mem (.ext a)) s)
  | .orbExt a => .accOp aluOr_keepsMasks ⟨rfl, rfl, rfl, rfl, nofun, nofun⟩ (rfl : _ = accOp aluOr .b (.mem (.ext a)) s)
  | .addbExt a => .accOp aluAdd_keepsMasks ⟨rfl, rfl, rfl, rfl, nofun, nofun⟩ (rfl : _ = accOp aluAdd .b (.mem (.ext a)) s)
  | .lddExt a => .wideOp aluLd16_keepsMasks rfl rfl rfl rfl nofun nofun (rfl : _ = wideOp aluLd16 .d (.mem (.ext a)) s)
  | .stdExt a => .wideStore ⟨rfl, rfl, rfl, rfl, nofun, nofun⟩ (rfl : _ = wideStore .d (.ext a) s)
  | .lduExt a => .wideOp aluLd16_keepsMasks rfl rfl rfl rfl nofun nofun (rfl : _ = wideOp aluLd16 .u (.mem (.ext a)) s)
  | .stuExt a => .wideStore ⟨rfl, rfl, rfl, rfl, nofun, nofun⟩ (rfl : _ = wideStore .u (.ext a) s)
  | .lbrn o => .branch ⟨rfl, rfl, rfl, rfl, nofun, nofun⟩ (rfl : _ = branch .never o s)
  | .lbhi o => .branch ⟨rfl, rfl, rfl, rfl, nofun, nofun⟩ (rfl : _ = branch .hi o s)
  | .lbls o => .branch ⟨rfl, rfl, rfl, rfl, nofun, nofun⟩ (rfl : _ = branch .ls o s)
  | .lbcc o => .branch ⟨rfl, rfl, rfl, rfl, nofun, nofun⟩ (rfl : _ = branch .cc o s)
  | .lbcs o => .branch ⟨rfl, rfl, rfl, rfl, nofun, nofun⟩ (rfl : _ = branch .cs o s)
  | .lbne o => .branch ⟨rfl, rfl, rfl, rfl, nofun, nofun⟩ (rfl : _ = branch .ne o s)
  | .lbeq o => .branch ⟨rfl, rfl, rfl, rfl, nofun, nofun⟩ (rfl : _ = branch .eq o s)
  | .lbvc o => .branch ⟨rfl, rfl, rfl, rfl, nofun, nofun⟩ (rfl : _ = branch .vc o s)
  | .lbvs o => .branch ⟨rfl, rfl, rfl, rfl, nofun, nofun⟩ (rfl : _ = branch .vs o s)
  | .lbpl o => .branch ⟨rfl, rfl, rfl, rfl, nofun, nofun⟩ (rfl : _ = branch .pl o s)
  | .lbmi o => .branch ⟨rfl, rfl, rfl, rfl, nofun, nofun⟩ (rfl : _ = branch .mi o s)
  | .lbge o => .branch ⟨rfl, rfl, rfl, rfl, nofun, nofun⟩ (rfl : _ = branch .ge o s)
  | .lblt o => .branch ⟨rfl, rfl, rfl, rfl, nofun, nofun⟩ (rfl : _ = branch .lt o s)
  | .lbgt o => .branch ⟨rfl, rfl, rfl, rfl, nofun, nofun⟩ (rfl : _ = branch .gt o s)
  | .lble o => .branch ⟨rfl, rfl, rfl, rfl, nofun, nofun⟩ (rfl : _ = branch .le o s)
  | .cmpdImm m => .wideTest aluSub16_keepsMasks ⟨rfl, rfl, rfl, rfl, nofun, nofun⟩ (rfl : _ = wideTest aluSub16 .d (.imm m) s)
  | .cmpyImm m => .wideTest aluSub16_keepsMasks ⟨rfl, rfl, rfl, rfl, nofun, nofun⟩ (rfl : _ = wideTest aluSub16 .y (.imm m) s)
  | .ldyImm m => .wideOp aluLd16_keepsMasks rfl rfl rfl rfl nofun nofun (rfl : _ = wideOp aluLd16 .y (.imm m) s)
  | .cmpdDir d => .wideTest aluSub16_keepsMasks ⟨rfl, rfl, rfl, rfl, nofun, nofun⟩ (rfl : _ = wideTest aluSub16 .d (.mem (.dir d)) s)
  | .cmpyDir d => .wideTest aluSub16_keepsMasks ⟨rfl, rfl, rfl, rfl, nofun, nofun⟩ (rfl : _ = wideTest aluSub16 .y (.mem (.dir d)) s)
  | .ldyDir d => .wideOp aluLd16_keepsMasks rfl rfl rfl rfl nofun nofun (rfl : _ = wideOp aluLd16 .y (.mem (.dir d)) s)
  | .styDir d => .wideStore ⟨rfl, rfl, rfl, rfl, nofun, nofun⟩ (rfl : _ = wideStore .y (.dir d) s)
  | .cmpdIdx ix => .wideTest aluSub16_keepsMasks ⟨rfl, rfl, rfl, rfl, nofun, nofun⟩ (rfl : _ = wideTest aluSub16 .d (.mem (.idx ix)) s)
  | .cmpyIdx ix => .wideTest aluSub16_keepsMasks ⟨rfl, rfl, rfl, rfl, nofun, nofun⟩ (rfl : _ = wideTest aluSub16 .y (.mem (.idx ix)) s)
  | .ldyIdx ix => .wideOp aluLd16_keepsMasks rfl rfl rfl rfl nofun nofun (rfl : _ = wideOp aluLd16 .y (.mem (.idx ix)) s)
  | .styIdx ix => .wideStore ⟨rfl, rfl, rfl, rfl, nofun, nofun⟩ (rfl : _ = wideStore .y (.idx ix) s)
  | .cmpdExt a => .wideTest aluSub16_keepsMasks ⟨rfl, rfl, rfl, rfl, nofun, nofun⟩ (rfl : _ = wideTest aluSub16 .d (.mem (.ext a)) s)
  | .cmpyExt a => .wideTest aluSub16_keepsMasks ⟨rfl, rfl, rfl, rfl, nofun, nofun⟩ (rfl : _ = wideTest aluSub16 .y (.mem (.ext a)) s)
  | .ldyExt a => .wideOp aluLd16_keepsMasks rfl rfl rfl rfl nofun nofun (rfl : _ = wideOp aluLd16 .y (.mem (.ext a)) s)
  | .styExt a => .wideStore ⟨rfl, rfl, rfl, rfl, nofun, nofun⟩ (rfl : _ = wideStore .y (.ext a) s)
  | .ldsImm m => .wideOp aluLd16_keepsMasks rfl rfl rfl rfl nofun nofun (rfl : _ = wideOp aluLd16 .s (.imm m) s)
  | .ldsDir d => .wideOp aluLd16_keepsMasks rfl rfl rfl rfl nofun nofun (rfl : _ = wideOp aluLd16 .s (.mem (.dir d)) s)
  | .stsDir d => .wideStore ⟨rfl, rfl, rfl, rfl, nofun, nofun⟩ (rfl : _ = wideStore .s (.dir d) s)
  | .ldsIdx ix => .wideOp aluLd16_keepsMasks rfl rfl rfl rfl nofun nofun (rfl : _ = wideOp aluLd16 .s (.mem (.idx ix)) s)
  | .stsIdx ix => .wideStore ⟨rfl, rfl, rfl, rfl, nofun, nofun⟩ (rfl : _ = wideStore .s (.idx ix) s)
  | .ldsExt a => .wideOp aluLd16_keepsMasks rfl rfl rfl rfl nofun nofun (rfl : _ = wideOp aluLd16 .s (.mem (.ext a)) s)
  | .stsExt a => .wideStore ⟨rfl, rfl, rfl, rfl, nofun, nofun⟩ (rfl : _ = wideStore .s (.ext a) s)
  | .cmpuImm m => .wideTest aluSub16_keepsMasks ⟨rfl, rfl, rfl, rfl, nofun, nofun⟩ (rfl : _ = wideTest aluSub16 .u (.imm m) s)
  | .cmpsImm m => .wideTest aluSub16_keepsMasks ⟨rfl, rfl, rfl, rfl, nofun, nofun⟩ (rfl : _ = wideTest aluSub16 .s (.imm m) s)
  | .cmpuDir d => .wideTest aluSub16_keepsMasks ⟨rfl, rfl, rfl, rfl, nofun, nofun⟩ (rfl : _ = wideTest aluSub16 .u (.mem (.dir d)) s)
  | .cmpsDir d => .wideTest aluSub16_keepsMasks ⟨rfl, rfl, rfl, rfl, nofun, nofun⟩ (rfl : _ = wideTest aluSub16 .s (.mem (.dir d)) s)
  | .cmpuIdx ix => .wideTest aluSub16_keepsMasks ⟨rfl, rfl, rfl, rfl, nofun, nofun⟩ (rfl : _ = wideTest aluSub16 .u (.mem (.idx ix)) s)
  | .cmpsIdx ix => .wideTest aluSub16_keepsMasks ⟨rfl, rfl, rfl, rfl, nofun, nofun⟩ (rfl : _ = wideTest aluSub16 .s (.mem (.idx ix)) s)
  | .cmpuExt a => .wideTest aluSub16_keepsMasks ⟨rfl, rfl, rfl, rfl, nofun, nofun⟩ (rfl : _ = wideTest aluSub16 .u (.mem (.ext a)) s)
  | .cmpsExt a => .wideTest aluSub16_keepsMasks ⟨rfl, rfl, rfl, rfl, nofun, nofun⟩ (rfl : _ = wideTest aluSub16 .s (.mem (.ext a)) s)
  | .nop => .nop rfl
  | .sync => .sync rfl
  | .daa => .daa rfl
  | .sex => .sex rfl
  | .rts => .rts rfl
  | .abx => .abx rfl
  | .rti => .rti rfl
  | .mul => .mul rfl
  | .swi => .swi rfl
  | .nega => .accModify aluNeg_keepsMasks ⟨rfl, rfl, rfl, rfl, nofun, nofun⟩ (rfl : _ = accModify aluNeg .a s)
  | .coma => .accModify aluCom_keepsMasks ⟨rfl, rfl, rfl, rfl, nofun, nofun⟩ (rfl : _ = accModify aluCom .a s)
  | .lsra => .accModify aluLsr_keepsMasks ⟨rfl, rfl, rfl, rfl, nofun, nofun⟩ (rfl : _ = accModify aluLsr .a s)
  | .rora => .accModify aluRor_keepsMasks ⟨rfl, rfl, rfl, rfl, nofun, nofun⟩ (rfl : _ = accModify aluRor .a s)
  | .asra => .accModify aluAsr_keepsMasks ⟨rfl, rfl, rfl, rfl, nofun, nofun⟩ (rfl : _ = accModify aluAsr .a s)
  | .asla => .accModify aluAsl_keepsMasks ⟨rfl, rfl, rfl, rfl, nofun, nofun⟩ (rfl : _ = accModify aluAsl .a s)
  | .rola => .accModify aluRol_keepsMasks ⟨rfl, rfl, rfl, rfl, nofun, nofun⟩ (rfl : _ = accModify aluRol .a s)
  | .deca => .accModify aluDec_keepsMasks ⟨rfl, rfl, rfl, rfl, nofun, nofun⟩ (rfl : _ = accModify aluDec .a s)
  | .inca => .accModify aluInc_keepsMasks ⟨rfl, rfl, rfl, rfl, nofun, nofun⟩ (rfl : _ = accModify aluInc .a s)
  | .tsta => .accProbe aluTst_keepsMasks ⟨rfl, rfl, rfl, rfl, nofun, nofun⟩ (rfl : _ = accProbe aluTst .a s)
  | .clra => .accModify aluClr_keepsMasks ⟨rfl, rfl, rfl, rfl, nofun, nofun⟩ (rfl : _ = accModify aluClr .a s)
  | .negb => .accModify aluNeg_keepsMasks ⟨rfl, rfl, rfl, rfl, nofun, nofun⟩ (rfl : _ = accModify aluNeg .b s)
  | .comb => .accModify aluCom_keepsMasks ⟨rfl, rfl, rfl, rfl, nofun, nofun⟩ (rfl : _ = accModify aluCom .b s)
  | .lsrb => .accModify aluLsr_keepsMasks ⟨rfl, rfl, rfl, rfl, nofun, nofun⟩ (rfl : _ = accModify aluLsr .b s)
  | .rorb => .accModify aluRor_keepsMasks ⟨rfl, rfl, rfl, rfl, nofun, nofun⟩ (rfl : _ = accModify aluRor .b s)
  | .asrb => .accModify aluAsr_keepsMasks ⟨rfl, rfl, rfl, rfl, nofun, nofun⟩ (rfl : _ = accModify aluAsr .b s)
  | .aslb => .accModify aluAsl_keepsMasks ⟨rfl, rfl, rfl, rfl, nofun, nofun⟩ (rfl : _ = accModify aluAsl .b s)
  | .rolb => .accModify aluRol_keepsMasks ⟨rfl, rfl, rfl, rfl, nofun, nofun⟩ (rfl : _ = accModify aluRol .b s)
  | .decb => .accModify aluDec_keepsMasks ⟨rfl, rfl, rfl, rfl, nofun, nofun⟩ (rfl : _ = accModify aluDec .b s)
  | .incb => .accModify aluInc_keepsMasks ⟨rfl, rfl, rfl, rfl, nofun, nofun⟩ (rfl : _ = accModify aluInc .b s)
  | .tstb => .accProbe aluTst_keepsMasks ⟨rfl, rfl, rfl, rfl, nofun, nofun⟩ (rfl : _ = accProbe aluTst .b s)
  | .clrb => .accModify aluClr_keepsMasks ⟨rfl, rfl, rfl, rfl, nofun, nofun⟩ (rfl : _ = accModify aluClr .b s)
  | .swi2 => .swi2 rfl
  | .swi3 => .swi3 rfl

end Sys2Proof.Machine
end

