-- ==== Sys2Proof/Laws/Runs.lean ====
section
/-! SUPPORT. Every meaning, and taking an interrupt, is a sequence of accesses of the MPU with BUSY low after the last: what a
statement about memory, the platform or the bus in every step rests on. -/

namespace Sys2Proof.Machine

/-- `t` comes from `s` by some accesses of the MPU, BUSY low after the last. -/
def State.Runs (s t : State) : Prop :=
  ∃ accs ws, s.Run t accs ws ∧ ∀ x, accs.head? = some x → x.busy = false

theorem State.Runs.of_bus {s t : State} (h : t.bus = s.bus) : s.Runs t := ⟨[], [], State.Run.refl h, by simp⟩

theorem State.Runs.of_run {s t : State} {accs : List Access} {ws : List (Word × Byte)} (h : s.Run t accs ws)
    (hb : ∀ x, accs.head? = some x → x.busy = false) : s.Runs t := ⟨accs, ws, h, hb⟩

theorem State.Runs.trans {s t u : State} (h : s.Runs t) (h' : t.Runs u) : s.Runs u := by
  obtain ⟨a1, w1, r1, b1⟩ := h
  obtain ⟨a2, w2, r2, b2⟩ := h'
  refine ⟨a2 ++ a1, w2 ++ w1, r1.trans r2, fun x hx => ?_⟩
  cases a2 with
  | nil => exact b1 x hx
  | cons y ys => exact b2 x hx

theorem State.Runs.busy {s t : State} (h : s.Runs t) (hs : s.bus.busy = false) : t.bus.busy = false := by
  obtain ⟨_, _, r, b⟩ := h
  exact r.busy hs b

theorem State.Runs.wf {s t : State} (h : s.Runs t) (hs : s.mem.wf = true) : t.mem.wf = true := by
  obtain ⟨_, _, r, _⟩ := h
  exact r.wf hs

theorem State.Pushed.runs {s t : State} {a : Word} {bs : List Byte} (h : s.Pushed t a bs) : s.Runs t :=
  .of_run h fun x hx => accesses_busy .push a bs x (List.mem_of_mem_head? hx)

theorem State.Pulled.runs {s t : State} {a : Word} {bs : List Byte} (h : s.Pulled t a bs) : s.Runs t :=
  .of_run h.1 fun x hx => accesses_busy .pull a bs x (List.mem_reverse.mp (List.mem_of_mem_head? hx))

theorem State.afterEA_runs (s : State) (o : Mem) : s.Runs (s.afterEA o) := by
  obtain ⟨_, r, b⟩ := s.afterEA_run o
  exact ⟨_, _, r, b⟩

theorem State.after8_runs (s : State) (o : Src8) : s.Runs (s.after8 o) := by
  obtain ⟨_, r, b⟩ := s.after8_run o
  exact ⟨_, _, r, b⟩

theorem State.after16_runs (s : State) (o : Src16) : s.Runs (s.after16 o) := by
  obtain ⟨_, r, b⟩ := s.after16_run o
  exact ⟨_, _, r, b⟩

theorem State.enter_runs (s : State) (e : Exc) (c : Bool) : s.Runs (s.enter e c) := by
  have h (u : State) (hu : s.Runs u) (hb : (s.enter e c).bus = (u.loadVector e.vector).bus) : s.Runs (s.enter e c) :=
    hu.trans (.of_run (State.Run.congr (u.didReadWord_run .vector e.vector) rfl hb)
      (by intro x hx; simp only [List.head?_cons, Option.some.injEq] at hx; rw [← hx]))
  cases c with
  | false => exact h ((s.keepFrame e).setMasks e) (.of_bus (by simp)) rfl
  | true =>
    exact h ((s.stackFrame e).setMasks e) ((State.Pushed.runs (s.stackFrame_pushed e)).trans (.of_bus (by simp))) rfl

theorem State.pullRegs_runs (s : State) (k : Stack) (l : RegList) : s.Runs (s.pullRegs k l) := by
  obtain ⟨_, _, hp, _⟩ := s.pullRegs_spec k l
  exact hp.runs

/-- Every meaning that goes on is a sequence of accesses with BUSY low after the last. -/
theorem exec_runs {i : Instr} {s t : State} (h : exec i s = .next t) : s.Runs t := by
  have single {u v : State} {a : Access} {ws : List (Word × Byte)} (r : u.Run v [a] ws) (hb : a.busy = false) : u.Runs v :=
    .of_run r (by simpa using hb)
  cases exec_shape i s with
  | accOp _ _ e =>
    obtain ⟨u, e', _, _, _, _, _, _, hb⟩ := accOp_spec _ _ _ s
    cases Host.Outcome.next.inj (e'.symm.trans (e.symm.trans h))
    exact (s.after8_runs _).trans (.of_bus hb)
  | accTest _ _ e =>
    obtain ⟨u, e', _, _, _, _, _, _, hb⟩ := accTest_spec _ _ _ s
    cases Host.Outcome.next.inj (e'.symm.trans (e.symm.trans h))
    exact (s.after8_runs _).trans (.of_bus hb)
  | accStore _ e =>
    obtain ⟨u, e', _, _, _, _, hr⟩ := accStore_spec _ _ s
    cases Host.Outcome.next.inj (e'.symm.trans (e.symm.trans h))
    exact (s.afterEA_runs _).trans (single hr rfl)
  | accModify _ _ e =>
    obtain ⟨u, e', _, _, _, _, _, hb⟩ := accModify_spec _ _ s
    cases Host.Outcome.next.inj (e'.symm.trans (e.symm.trans h))
    exact .of_bus hb
  | accProbe _ _ e =>
    obtain ⟨u, e', _, _, _, _, hb⟩ := accProbe_spec _ _ s
    cases Host.Outcome.next.inj (e'.symm.trans (e.symm.trans h))
    exact .of_bus hb
  | memModify _ _ e =>
    obtain ⟨u, e', _, _, _, _, hr⟩ := memModify_spec _ _ s
    cases Host.Outcome.next.inj (e'.symm.trans (e.symm.trans h))
    exact (s.afterEA_runs _).trans (.of_run hr (by simp))
  | memProbe _ _ e =>
    obtain ⟨u, e', _, _, _, _, _, hr⟩ := memProbe_spec _ _ s
    cases Host.Outcome.next.inj (e'.symm.trans (e.symm.trans h))
    exact (s.afterEA_runs _).trans (single hr rfl)
  | wideOp _ _ _ _ _ _ _ e =>
    obtain ⟨u, e', _, _, _, _, _, _, hb⟩ := wideOp_spec _ _ _ s
    cases Host.Outcome.next.inj (e'.symm.trans (e.symm.trans h))
    exact (s.after16_runs _).trans (.of_bus hb)
  | wideTest _ _ e =>
    obtain ⟨u, e', _, _, _, _, _, hb⟩ := wideTest_spec _ _ _ s
    cases Host.Outcome.next.inj (e'.symm.trans (e.symm.trans h))
    exact (s.after16_runs _).trans (.of_bus hb)
  | wideStore _ e =>
    obtain ⟨u, e', _, _, _, _, hr⟩ := wideStore_spec _ _ s
    cases Host.Outcome.next.inj (e'.symm.trans (e.symm.trans h))
    exact (s.afterEA_runs _).trans (.of_run hr (by simp))
  | leaStack _ _ _ _ _ _ e =>
    obtain ⟨u, e', _, _, _, _, _, _, hb⟩ := leaStack_spec _ _ s
    cases Host.Outcome.next.inj (e'.symm.trans (e.symm.trans h))
    exact (s.afterEA_runs (.idx _)).trans (.of_bus hb)
  | leaIndex _ _ _ _ _ _ e =>
    obtain ⟨u, e', _, _, _, _, _, _, hb⟩ := leaIndex_spec _ _ s
    cases Host.Outcome.next.inj (e'.symm.trans (e.symm.trans h))
    exact (s.afterEA_runs (.idx _)).trans (.of_bus hb)
  | branch _ e =>
    obtain ⟨u, e', _, _, _, hb⟩ := branch_spec _ _ s
    cases Host.Outcome.next.inj (e'.symm.trans (e.symm.trans h))
    exact .of_bus hb
  | branchToSubroutine _ e =>
    obtain ⟨u, e', _, _, hp, _⟩ := branchToSubroutine_spec _ s
    cases Host.Outcome.next.inj (e'.symm.trans (e.symm.trans h))
    exact hp.runs
  | jump _ e =>
    obtain ⟨u, e', _, _, _, hb⟩ := jump_spec _ s
    cases Host.Outcome.next.inj (e'.symm.trans (e.symm.trans h))
    exact (s.afterEA_runs _).trans (.of_bus hb)
  | jumpToSubroutine _ e =>
    obtain ⟨u, e', _, _, hp, _⟩ := jumpToSubroutine_spec _ s
    cases Host.Outcome.next.inj (e'.symm.trans (e.symm.trans h))
    exact (s.afterEA_runs _).trans hp.runs
  | exg e =>
    subst e
    have h' : execExg _ _ s = .next t := h
    unfold execExg at h'
    split at h'
    · obtain rfl := Host.Outcome.next.inj h'
      exact .of_bus (by simp)
    · cases h'
  | tfr e =>
    subst e
    have h' : execTfr _ _ s = .next t := h
    unfold execTfr at h'
    split at h'
    · obtain rfl := Host.Outcome.next.inj h'
      exact .of_bus (by simp)
    · cases h'
  | pshs e => subst e; obtain rfl := Host.Outcome.next.inj h; exact State.Pushed.runs (s.pushRegs_pushed .s _)
  | pshu e => subst e; obtain rfl := Host.Outcome.next.inj h; exact State.Pushed.runs (s.pushRegs_pushed .u _)
  | puls e => subst e; obtain rfl := Host.Outcome.next.inj h; exact s.pullRegs_runs .s _
  | pulu e => subst e; obtain rfl := Host.Outcome.next.inj h; exact s.pullRegs_runs .u _
  | rts e =>
    subst e
    obtain ⟨u, e', _, _, hp, _⟩ := execRts_spec s
    cases Host.Outcome.next.inj (e'.symm.trans h)
    exact hp.runs
  | rti e =>
    subst e
    obtain rfl := Host.Outcome.next.inj h
    obtain ⟨_, hp, _⟩ := s.returnFromInterrupt_spec
    exact hp.runs
  | cwai e =>
    subst e
    obtain ⟨u, e', _, _, _, hp, _⟩ := execCwai_spec _ s
    cases Host.Outcome.next.inj (e'.symm.trans h)
    exact hp.runs
  | swi e => subst e; obtain rfl := Host.Outcome.next.inj h; exact s.enter_runs .swi true
  | swi2 e => subst e; obtain rfl := Host.Outcome.next.inj h; exact s.enter_runs .swi2 true
  | swi3 e => subst e; obtain rfl := Host.Outcome.next.inj h; exact s.enter_runs .swi3 true
  | orcc e | andcc e | sync e | nop e | daa e | mul e | sex e | abx e =>
    subst e
    obtain rfl := Host.Outcome.next.inj h
    exact .of_bus rfl

end Sys2Proof.Machine
end

