-- ==== Sys2Proof/Machine/Assembly.lean ====
section
/-! DEFINITION. The instructions in the sources' assembler syntax (30_encoding.md R126 to R128): a disassembler, which
prints the first mnemonic of each pair (R127). `next` is the address of the instruction after the one printed. -/

namespace Sys2Proof.Machine

/-- The hexadecimal digit of a nibble. -/
def hexDigit (v : Nat) : String :=
  match v with
  | 0 => "0" | 1 => "1" | 2 => "2" | 3 => "3" | 4 => "4" | 5 => "5" | 6 => "6" | 7 => "7"
  | 8 => "8" | 9 => "9" | 10 => "A" | 11 => "B" | 12 => "C" | 13 => "D" | 14 => "E" | _ => "F"

/-- `$hh`. -/
def hex8 (v : Byte) : String := "$" ++ hexDigit (v.toNat / 16) ++ hexDigit (v.toNat % 16)

/-- `$hhhh`. -/
def hex16 (v : Word) : String :=
  "$" ++ hexDigit (v.toNat / 4096) ++ hexDigit (v.toNat / 256 % 16) ++ hexDigit (v.toNat / 16 % 16)
    ++ hexDigit (v.toNat % 16)

/-- A signed offset in decimal. -/
def signedText (v : Int) : String := toString v

/-- `#value` (R126). -/
def imm8Text (m : Byte) : String := "#" ++ hex8 m

/-- `#value` (R126). -/
def imm16Text (m : Word) : String := "#" ++ hex16 m

/-- `<value`: the forcing character of direct addressing (R128). -/
def directText (d : Byte) : String := "<" ++ hex8 d

/-- `>value`: the forcing character of extended addressing (R128). -/
def extendedText (a : Word) : String := ">" ++ hex16 a

/-- The target of a branch (R126). -/
def targetText (a : Word) : String := hex16 a

/-- A pointer register (R126). -/
def ptrName : Ptr → String
  | .x => "X"
  | .y => "Y"
  | .u => "U"
  | .s => "S"

/-- A register of EXG or TFR (R126). -/
def xregName : XReg → String
  | .d => "D"
  | .x => "X"
  | .y => "Y"
  | .u => "U"
  | .s => "S"
  | .pc => "PC"
  | .a => "A"
  | .b => "B"
  | .cc => "CC"
  | .dp => "DP"

/-- The brackets of indirection (R126). -/
def bracket (i : Bool) (t : String) : String := if i then "[" ++ t ++ "]" else t

/-- An indexed operand; the PC-relative forms name their target (R126, R128). -/
def indexedText (next : Word) : Idx → String
  | .off5 r n => signedText n.toInt ++ "," ++ ptrName r
  | .zero r i => bracket i ("," ++ ptrName r)
  | .off8 r i n => bracket i (signedText n.toInt ++ "," ++ ptrName r)
  | .off16 r i n => bracket i (signedText n.toInt ++ "," ++ ptrName r)
  | .accA r i => bracket i ("A," ++ ptrName r)
  | .accB r i => bracket i ("B," ++ ptrName r)
  | .accD r i => bracket i ("D," ++ ptrName r)
  | .inc1 r => "," ++ ptrName r ++ "+"
  | .inc2 r i => bracket i ("," ++ ptrName r ++ "++")
  | .dec1 r => ",-" ++ ptrName r
  | .dec2 r i => bracket i (",--" ++ ptrName r)
  | .pcr8 i n => bracket i (hex16 (next + sext8 n) ++ ",PCR")
  | .pcr16 i n => bracket i (hex16 (next + n) ++ ",PCR")
  | .extInd a => bracket true (hex16 a)

/-- `R1,R2` (R126). -/
def pairText (r1 r2 : XReg) : String := xregName r1 ++ "," ++ xregName r2

/-- The names of a register list, `other` being the other stack pointer (R126). -/
def listNames (other : String) (l : RegList) : List String :=
  (if l.pc then ["PC"] else []) ++ (if l.other then [other] else []) ++ (if l.y then ["Y"] else [])
    ++ (if l.x then ["X"] else []) ++ (if l.dp then ["DP"] else []) ++ (if l.b then ["B"] else [])
    ++ (if l.a then ["A"] else []) ++ (if l.cc then ["CC"] else [])

/-- A register list (R126). -/
def listText (other : String) (l : RegList) : String := ",".intercalate (listNames other l)

/-- An instruction in assembler syntax (R126). -/
def assemblyText (next : Word) : Instr → String
  | .negDir d => "NEG " ++ directText d
  | .comDir d => "COM " ++ directText d
  | .lsrDir d => "LSR " ++ directText d
  | .rorDir d => "ROR " ++ directText d
  | .asrDir d => "ASR " ++ directText d
  | .aslDir d => "ASL " ++ directText d
  | .rolDir d => "ROL " ++ directText d
  | .decDir d => "DEC " ++ directText d
  | .incDir d => "INC " ++ directText d
  | .tstDir d => "TST " ++ directText d
  | .jmpDir d => "JMP " ++ directText d
  | .clrDir d => "CLR " ++ directText d
  | .lbra o => "LBRA " ++ targetText (next + o)
  | .lbsr o => "LBSR " ++ targetText (next + o)
  | .orcc m => "ORCC " ++ imm8Text m
  | .andcc m => "ANDCC " ++ imm8Text m
  | .exg r1 r2 => "EXG " ++ pairText r1 r2
  | .tfr r1 r2 => "TFR " ++ pairText r1 r2
  | .bra o => "BRA " ++ targetText (next + sext8 o)
  | .brn o => "BRN " ++ targetText (next + sext8 o)
  | .bhi o => "BHI " ++ targetText (next + sext8 o)
  | .bls o => "BLS " ++ targetText (next + sext8 o)
  | .bcc o => "BCC " ++ targetText (next + sext8 o)
  | .bcs o => "BCS " ++ targetText (next + sext8 o)
  | .bne o => "BNE " ++ targetText (next + sext8 o)
  | .beq o => "BEQ " ++ targetText (next + sext8 o)
  | .bvc o => "BVC " ++ targetText (next + sext8 o)
  | .bvs o => "BVS " ++ targetText (next + sext8 o)
  | .bpl o => "BPL " ++ targetText (next + sext8 o)
  | .bmi o => "BMI " ++ targetText (next + sext8 o)
  | .bge o => "BGE " ++ targetText (next + sext8 o)
  | .blt o => "BLT " ++ targetText (next + sext8 o)
  | .bgt o => "BGT " ++ targetText (next + sext8 o)
  | .ble o => "BLE " ++ targetText (next + sext8 o)
  | .leax ix => "LEAX " ++ indexedText next ix
  | .leay ix => "LEAY " ++ indexedText next ix
  | .leas ix => "LEAS " ++ indexedText next ix
  | .leau ix => "LEAU " ++ indexedText next ix
  | .pshs l => "PSHS " ++ listText "U" l
  | .puls l => "PULS " ++ listText "U" l
  | .pshu l => "PSHU " ++ listText "S" l
  | .pulu l => "PULU " ++ listText "S" l
  | .cwai m => "CWAI " ++ imm8Text m
  | .negIdx ix => "NEG " ++ indexedText next ix
  | .comIdx ix => "COM " ++ indexedText next ix
  | .lsrIdx ix => "LSR " ++ indexedText next ix
  | .rorIdx ix => "ROR " ++ indexedText next ix
  | .asrIdx ix => "ASR " ++ indexedText next ix
  | .aslIdx ix => "ASL " ++ indexedText next ix
  | .rolIdx ix => "ROL " ++ indexedText next ix
  | .decIdx ix => "DEC " ++ indexedText next ix
  | .incIdx ix => "INC " ++ indexedText next ix
  | .tstIdx ix => "TST " ++ indexedText next ix
  | .jmpIdx ix => "JMP " ++ indexedText next ix
  | .clrIdx ix => "CLR " ++ indexedText next ix
  | .negExt a => "NEG " ++ extendedText a
  | .comExt a => "COM " ++ extendedText a
  | .lsrExt a => "LSR " ++ extendedText a
  | .rorExt a => "ROR " ++ extendedText a
  | .asrExt a => "ASR " ++ extendedText a
  | .aslExt a => "ASL " ++ extendedText a
  | .rolExt a => "ROL " ++ extendedText a
  | .decExt a => "DEC " ++ extendedText a
  | .incExt a => "INC " ++ extendedText a
  | .tstExt a => "TST " ++ extendedText a
  | .jmpExt a => "JMP " ++ extendedText a
  | .clrExt a => "CLR " ++ extendedText a
  | .subaImm m => "SUBA " ++ imm8Text m
  | .cmpaImm m => "CMPA " ++ imm8Text m
  | .sbcaImm m => "SBCA " ++ imm8Text m
  | .subdImm m => "SUBD " ++ imm16Text m
  | .andaImm m => "ANDA " ++ imm8Text m
  | .bitaImm m => "BITA " ++ imm8Text m
  | .ldaImm m => "LDA " ++ imm8Text m
  | .eoraImm m => "EORA " ++ imm8Text m
  | .adcaImm m => "ADCA " ++ imm8Text m
  | .oraImm m => "ORA " ++ imm8Text m
  | .addaImm m => "ADDA " ++ imm8Text m
  | .cmpxImm m => "CMPX " ++ imm16Text m
  | .bsr o => "BSR " ++ targetText (next + sext8 o)
  | .ldxImm m => "LDX " ++ imm16Text m
  | .subaDir d => "SUBA " ++ directText d
  | .cmpaDir d => "CMPA " ++ directText d
  | .sbcaDir d => "SBCA " ++ directText d
  | .subdDir d => "SUBD " ++ directText d
  | .andaDir d => "ANDA " ++ directText d
  | .bitaDir d => "BITA " ++ directText d
  | .ldaDir d => "LDA " ++ directText d
  | .staDir d => "STA " ++ directText d
  | .eoraDir d => "EORA " ++ directText d
  | .adcaDir d => "ADCA " ++ directText d
  | .oraDir d => "ORA " ++ directText d
  | .addaDir d => "ADDA " ++ directText d
  | .cmpxDir d => "CMPX " ++ directText d
  | .jsrDir d => "JSR " ++ directText d
  | .ldxDir d => "LDX " ++ directText d
  | .stxDir d => "STX " ++ directText d
  | .subaIdx ix => "SUBA " ++ indexedText next ix
  | .cmpaIdx ix => "CMPA " ++ indexedText next ix
  | .sbcaIdx ix => "SBCA " ++ indexedText next ix
  | .subdIdx ix => "SUBD " ++ indexedText next ix
  | .andaIdx ix => "ANDA " ++ indexedText next ix
  | .bitaIdx ix => "BITA " ++ indexedText next ix
  | .ldaIdx ix => "LDA " ++ indexedText next ix
  | .staIdx ix => "STA " ++ indexedText next ix
  | .eoraIdx ix => "EORA " ++ indexedText next ix
  | .adcaIdx ix => "ADCA " ++ indexedText next ix
  | .oraIdx ix => "ORA " ++ indexedText next ix
  | .addaIdx ix => "ADDA " ++ indexedText next ix
  | .cmpxIdx ix => "CMPX " ++ indexedText next ix
  | .jsrIdx ix => "JSR " ++ indexedText next ix
  | .ldxIdx ix => "LDX " ++ indexedText next ix
  | .stxIdx ix => "STX " ++ indexedText next ix
  | .subaExt a => "SUBA " ++ extendedText a
  | .cmpaExt a => "CMPA " ++ extendedText a
  | .sbcaExt a => "SBCA " ++ extendedText a
  | .subdExt a => "SUBD " ++ extendedText a
  | .andaExt a => "ANDA " ++ extendedText a
  | .bitaExt a => "BITA " ++ extendedText a
  | .ldaExt a => "LDA " ++ extendedText a
  | .staExt a => "STA " ++ extendedText a
  | .eoraExt a => "EORA " ++ extendedText a
  | .adcaExt a => "ADCA " ++ extendedText a
  | .oraExt a => "ORA " ++ extendedText a
  | .addaExt a => "ADDA " ++ extendedText a
  | .cmpxExt a => "CMPX " ++ extendedText a
  | .jsrExt a => "JSR " ++ extendedText a
  | .ldxExt a => "LDX " ++ extendedText a
  | .stxExt a => "STX " ++ extendedText a
  | .subbImm m => "SUBB " ++ imm8Text m
  | .cmpbImm m => "CMPB " ++ imm8Text m
  | .sbcbImm m => "SBCB " ++ imm8Text m
  | .adddImm m => "ADDD " ++ imm16Text m
  | .andbImm m => "ANDB " ++ imm8Text m
  | .bitbImm m => "BITB " ++ imm8Text m
  | .ldbImm m => "LDB " ++ imm8Text m
  | .eorbImm m => "EORB " ++ imm8Text m
  | .adcbImm m => "ADCB " ++ imm8Text m
  | .orbImm m => "ORB " ++ imm8Text m
  | .addbImm m => "ADDB " ++ imm8Text m
  | .lddImm m => "LDD " ++ imm16Text m
  | .lduImm m => "LDU " ++ imm16Text m
  | .subbDir d => "SUBB " ++ directText d
  | .cmpbDir d => "CMPB " ++ directText d
  | .sbcbDir d => "SBCB " ++ directText d
  | .adddDir d => "ADDD " ++ directText d
  | .andbDir d => "ANDB " ++ directText d
  | .bitbDir d => "BITB " ++ directText d
  | .ldbDir d => "LDB " ++ directText d
  | .stbDir d => "STB " ++ directText d
  | .eorbDir d => "EORB " ++ directText d
  | .adcbDir d => "ADCB " ++ directText d
  | .orbDir d => "ORB " ++ directText d
  | .addbDir d => "ADDB " ++ directText d
  | .lddDir d => "LDD " ++ directText d
  | .stdDir d => "STD " ++ directText d
  | .lduDir d => "LDU " ++ directText d
  | .stuDir d => "STU " ++ directText d
  | .subbIdx ix => "SUBB " ++ indexedText next ix
  | .cmpbIdx ix => "CMPB " ++ indexedText next ix
  | .sbcbIdx ix => "SBCB " ++ indexedText next ix
  | .adddIdx ix => "ADDD " ++ indexedText next ix
  | .andbIdx ix => "ANDB " ++ indexedText next ix
  | .bitbIdx ix => "BITB " ++ indexedText next ix
  | .ldbIdx ix => "LDB " ++ indexedText next ix
  | .stbIdx ix => "STB " ++ indexedText next ix
  | .eorbIdx ix => "EORB " ++ indexedText next ix
  | .adcbIdx ix => "ADCB " ++ indexedText next ix
  | .orbIdx ix => "ORB " ++ indexedText next ix
  | .addbIdx ix => "ADDB " ++ indexedText next ix
  | .lddIdx ix => "LDD " ++ indexedText next ix
  | .stdIdx ix => "STD " ++ indexedText next ix
  | .lduIdx ix => "LDU " ++ indexedText next ix
  | .stuIdx ix => "STU " ++ indexedText next ix
  | .subbExt a => "SUBB " ++ extendedText a
  | .cmpbExt a => "CMPB " ++ extendedText a
  | .sbcbExt a => "SBCB " ++ extendedText a
  | .adddExt a => "ADDD " ++ extendedText a
  | .andbExt a => "ANDB " ++ extendedText a
  | .bitbExt a => "BITB " ++ extendedText a
  | .ldbExt a => "LDB " ++ extendedText a
  | .stbExt a => "STB " ++ extendedText a
  | .eorbExt a => "EORB " ++ extendedText a
  | .adcbExt a => "ADCB " ++ extendedText a
  | .orbExt a => "ORB " ++ extendedText a
  | .addbExt a => "ADDB " ++ extendedText a
  | .lddExt a => "LDD " ++ extendedText a
  | .stdExt a => "STD " ++ extendedText a
  | .lduExt a => "LDU " ++ extendedText a
  | .stuExt a => "STU " ++ extendedText a
  | .lbrn o => "LBRN " ++ targetText (next + o)
  | .lbhi o => "LBHI " ++ targetText (next + o)
  | .lbls o => "LBLS " ++ targetText (next + o)
  | .lbcc o => "LBCC " ++ targetText (next + o)
  | .lbcs o => "LBCS " ++ targetText (next + o)
  | .lbne o => "LBNE " ++ targetText (next + o)
  | .lbeq o => "LBEQ " ++ targetText (next + o)
  | .lbvc o => "LBVC " ++ targetText (next + o)
  | .lbvs o => "LBVS " ++ targetText (next + o)
  | .lbpl o => "LBPL " ++ targetText (next + o)
  | .lbmi o => "LBMI " ++ targetText (next + o)
  | .lbge o => "LBGE " ++ targetText (next + o)
  | .lblt o => "LBLT " ++ targetText (next + o)
  | .lbgt o => "LBGT " ++ targetText (next + o)
  | .lble o => "LBLE " ++ targetText (next + o)
  | .cmpdImm m => "CMPD " ++ imm16Text m
  | .cmpyImm m => "CMPY " ++ imm16Text m
  | .ldyImm m => "LDY " ++ imm16Text m
  | .cmpdDir d => "CMPD " ++ directText d
  | .cmpyDir d => "CMPY " ++ directText d
  | .ldyDir d => "LDY " ++ directText d
  | .styDir d => "STY " ++ directText d
  | .cmpdIdx ix => "CMPD " ++ indexedText next ix
  | .cmpyIdx ix => "CMPY " ++ indexedText next ix
  | .ldyIdx ix => "LDY " ++ indexedText next ix
  | .styIdx ix => "STY " ++ indexedText next ix
  | .cmpdExt a => "CMPD " ++ extendedText a
  | .cmpyExt a => "CMPY " ++ extendedText a
  | .ldyExt a => "LDY " ++ extendedText a
  | .styExt a => "STY " ++ extendedText a
  | .ldsImm m => "LDS " ++ imm16Text m
  | .ldsDir d => "LDS " ++ directText d
  | .stsDir d => "STS " ++ directText d
  | .ldsIdx ix => "LDS " ++ indexedText next ix
  | .stsIdx ix => "STS " ++ indexedText next ix
  | .ldsExt a => "LDS " ++ extendedText a
  | .stsExt a => "STS " ++ extendedText a
  | .cmpuImm m => "CMPU " ++ imm16Text m
  | .cmpsImm m => "CMPS " ++ imm16Text m
  | .cmpuDir d => "CMPU " ++ directText d
  | .cmpsDir d => "CMPS " ++ directText d
  | .cmpuIdx ix => "CMPU " ++ indexedText next ix
  | .cmpsIdx ix => "CMPS " ++ indexedText next ix
  | .cmpuExt a => "CMPU " ++ extendedText a
  | .cmpsExt a => "CMPS " ++ extendedText a
  | .nop => "NOP"
  | .sync => "SYNC"
  | .daa => "DAA"
  | .sex => "SEX"
  | .rts => "RTS"
  | .abx => "ABX"
  | .rti => "RTI"
  | .mul => "MUL"
  | .swi => "SWI"
  | .nega => "NEGA"
  | .coma => "COMA"
  | .lsra => "LSRA"
  | .rora => "RORA"
  | .asra => "ASRA"
  | .asla => "ASLA"
  | .rola => "ROLA"
  | .deca => "DECA"
  | .inca => "INCA"
  | .tsta => "TSTA"
  | .clra => "CLRA"
  | .negb => "NEGB"
  | .comb => "COMB"
  | .lsrb => "LSRB"
  | .rorb => "RORB"
  | .asrb => "ASRB"
  | .aslb => "ASLB"
  | .rolb => "ROLB"
  | .decb => "DECB"
  | .incb => "INCB"
  | .tstb => "TSTB"
  | .clrb => "CLRB"
  | .swi2 => "SWI2"
  | .swi3 => "SWI3"

/-- The bytes that memory holds from `pc` on; no access is made. -/
def State.window (s : State) : Window :=
  Window.ofList ((List.range 5).map fun i => s.mem.read (s.pc + BitVec.ofNat 16 i).toNat)

/-- The instruction at `pc` in assembler syntax; nothing where the bytes there are no instruction. -/
def State.disassemble (s : State) : Option String :=
  match decode s.window with
  | .instr i n => some (assemblyText (s.pc + BitVec.ofNat 16 n) i)
  | .illegalOpcode _ => none
  | .illegalPostbyte _ => none
  | .undefinedRegisterCode _ => none

end Sys2Proof.Machine
end

