-- ==== Sys2Proof/Tests/Slice0.lean ====
section
/-! SUPPORT. Tests. The bytes and the expected results are the spec's: the opcode tables of 30_encoding.md, the examples of
the rules, and 95_test_vectors.md. A theorem `test_meets_…` shows a state and operands that meet the hypotheses of the
statement it names. -/

namespace Sys2Proof.Machine

/-- Whether each list of bytes decodes, with its whole length, to the instruction beside it. -/
def decodesTo (rows : List (List Byte × Instr)) : Bool :=
  rows.all fun p => decode (Window.ofList p.1) == .instr p.2 p.1.length

/-- A running machine with pc $1000, S $8000 and the bytes of a program at $1000. -/
def loaded (bs : List Byte) : State := State.place { State.reset with pc := 0x1000, sp := 0x8000 } 0x1000 bs

/-- Whether a step or a meaning goes on, to a state with a property. -/
def goesTo (r : Result) (p : State → Bool) : Bool :=
  match r with
  | .next t => p t
  | .fault _ | .refused _ => false

/-- Whether a step or a meaning ends in a fault. -/
def stopsWith (r : Result) (f : Fault) : Bool :=
  match r with
  | .fault g => g == f
  | .next _ | .refused _ => false

/-- The bytes of memory from an address up. -/
def bytesAt (s : State) (a : Word) (n : Nat) : List Byte := (List.range n).map fun i => s.mem.read (above a i).toNat

/-- A state with another memory map. -/
def mapped (s : State) (regions : List Region) : State :=
  { s with bus := { s.bus with platform := { s.bus.platform with memMap := regions } } }

/-- A state on another platform: a version, whether its other masters use its input, whether they honour BUSY; RAM everywhere. -/
def onPlatform (s : State) (version : Version) (uses honours : Bool) : State :=
  { s with bus := { s.bus with platform := ⟨version, [], uses, uses, honours, none⟩ } }

/-- A state whose next step has the environment `c` at its access number `n`, the first being number 0. -/
def disturbed (s : State) (n : Nat) (c : Cycle) : State :=
  { s with inputs := [{ Inputs.quiet with cycles := List.replicate n Cycle.quiet ++ [c] }] }

/-! ## Well-formedness: each check refuses a term that breaks it -/

theorem test_wf_refuses_exg_of_unlike_registers : (Instr.exg .a .d).wf = false := by decide
theorem test_wf_refuses_tfr_of_unlike_registers : (Instr.tfr .x .a).wf = false := by decide
theorem test_wf_admits_exg_of_like_registers : (Instr.exg .cc .dp).wf = true := by decide

/-! ## Decoding: the word of every row of the opcode tables (30_encoding.md R84, R86, R87) -/

theorem test_decode_page1_column0 : decodesTo [
  ([0x00, 0x9B], .negDir 0x9B), ([0x03, 0x9B], .comDir 0x9B), ([0x04, 0x9B], .lsrDir 0x9B),
  ([0x06, 0x9B], .rorDir 0x9B), ([0x07, 0x9B], .asrDir 0x9B), ([0x08, 0x9B], .aslDir 0x9B),
  ([0x09, 0x9B], .rolDir 0x9B), ([0x0A, 0x9B], .decDir 0x9B), ([0x0C, 0x9B], .incDir 0x9B),
  ([0x0D, 0x9B], .tstDir 0x9B), ([0x0E, 0x9B], .jmpDir 0x9B), ([0x0F, 0x9B], .clrDir 0x9B)] = true := by decide

theorem test_decode_page1_column1 : decodesTo [
  ([0x12], .nop), ([0x13], .sync), ([0x16, 0x12, 0x34], .lbra 0x1234), ([0x17, 0x12, 0x34], .lbsr 0x1234),
  ([0x19], .daa), ([0x1A, 0xA5], .orcc 0xA5), ([0x1C, 0xA5], .andcc 0xA5), ([0x1D], .sex), ([0x1E, 0x89], .exg .a .b),
  ([0x1F, 0x89], .tfr .a .b)] = true := by decide

theorem test_decode_page1_column2 : decodesTo [
  ([0x20, 0xF0], .bra 0xF0), ([0x21, 0xF0], .brn 0xF0), ([0x22, 0xF0], .bhi 0xF0), ([0x23, 0xF0], .bls 0xF0),
  ([0x24, 0xF0], .bcc 0xF0), ([0x25, 0xF0], .bcs 0xF0), ([0x26, 0xF0], .bne 0xF0), ([0x27, 0xF0], .beq 0xF0),
  ([0x28, 0xF0], .bvc 0xF0), ([0x29, 0xF0], .bvs 0xF0), ([0x2A, 0xF0], .bpl 0xF0), ([0x2B, 0xF0], .bmi 0xF0),
  ([0x2C, 0xF0], .bge 0xF0), ([0x2D, 0xF0], .blt 0xF0), ([0x2E, 0xF0], .bgt 0xF0), ([0x2F, 0xF0], .ble 0xF0)] = true := by decide

theorem test_decode_page1_column3 : decodesTo [
  ([0x30, 0x3E], .leax (.off5 .y 0x1E)), ([0x31, 0x3E], .leay (.off5 .y 0x1E)), ([0x32, 0x3E], .leas (.off5 .y 0x1E)),
  ([0x33, 0x3E], .leau (.off5 .y 0x1E)), ([0x34, 0x56], .pshs ⟨false, true, false, true, false, true, true, false⟩),
  ([0x35, 0x56], .puls ⟨false, true, false, true, false, true, true, false⟩),
  ([0x36, 0x56], .pshu ⟨false, true, false, true, false, true, true, false⟩),
  ([0x37, 0x56], .pulu ⟨false, true, false, true, false, true, true, false⟩), ([0x39], .rts), ([0x3A], .abx),
  ([0x3B], .rti), ([0x3C, 0xA5], .cwai 0xA5), ([0x3D], .mul), ([0x3F], .swi)] = true := by decide

theorem test_decode_page1_column4 : decodesTo [
  ([0x40], .nega), ([0x43], .coma), ([0x44], .lsra), ([0x46], .rora), ([0x47], .asra), ([0x48], .asla),
  ([0x49], .rola), ([0x4A], .deca), ([0x4C], .inca), ([0x4D], .tsta), ([0x4F], .clra)] = true := by decide

theorem test_decode_page1_column5 : decodesTo [
  ([0x50], .negb), ([0x53], .comb), ([0x54], .lsrb), ([0x56], .rorb), ([0x57], .asrb), ([0x58], .aslb),
  ([0x59], .rolb), ([0x5A], .decb), ([0x5C], .incb), ([0x5D], .tstb), ([0x5F], .clrb)] = true := by decide

theorem test_decode_page1_column6 : decodesTo [
  ([0x60, 0x3E], .negIdx (.off5 .y 0x1E)), ([0x63, 0x3E], .comIdx (.off5 .y 0x1E)),
  ([0x64, 0x3E], .lsrIdx (.off5 .y 0x1E)), ([0x66, 0x3E], .rorIdx (.off5 .y 0x1E)),
  ([0x67, 0x3E], .asrIdx (.off5 .y 0x1E)), ([0x68, 0x3E], .aslIdx (.off5 .y 0x1E)),
  ([0x69, 0x3E], .rolIdx (.off5 .y 0x1E)), ([0x6A, 0x3E], .decIdx (.off5 .y 0x1E)),
  ([0x6C, 0x3E], .incIdx (.off5 .y 0x1E)), ([0x6D, 0x3E], .tstIdx (.off5 .y 0x1E)),
  ([0x6E, 0x3E], .jmpIdx (.off5 .y 0x1E)), ([0x6F, 0x3E], .clrIdx (.off5 .y 0x1E))] = true := by decide

theorem test_decode_page1_column7 : decodesTo [
  ([0x70, 0x20, 0x01], .negExt 0x2001), ([0x73, 0x20, 0x01], .comExt 0x2001), ([0x74, 0x20, 0x01], .lsrExt 0x2001),
  ([0x76, 0x20, 0x01], .rorExt 0x2001), ([0x77, 0x20, 0x01], .asrExt 0x2001), ([0x78, 0x20, 0x01], .aslExt 0x2001),
  ([0x79, 0x20, 0x01], .rolExt 0x2001), ([0x7A, 0x20, 0x01], .decExt 0x2001), ([0x7C, 0x20, 0x01], .incExt 0x2001),
  ([0x7D, 0x20, 0x01], .tstExt 0x2001), ([0x7E, 0x20, 0x01], .jmpExt 0x2001), ([0x7F, 0x20, 0x01], .clrExt 0x2001)] = true := by decide

theorem test_decode_page1_column8 : decodesTo [
  ([0x80, 0xA5], .subaImm 0xA5), ([0x81, 0xA5], .cmpaImm 0xA5), ([0x82, 0xA5], .sbcaImm 0xA5),
  ([0x83, 0x12, 0x34], .subdImm 0x1234), ([0x84, 0xA5], .andaImm 0xA5), ([0x85, 0xA5], .bitaImm 0xA5),
  ([0x86, 0xA5], .ldaImm 0xA5), ([0x88, 0xA5], .eoraImm 0xA5), ([0x89, 0xA5], .adcaImm 0xA5),
  ([0x8A, 0xA5], .oraImm 0xA5), ([0x8B, 0xA5], .addaImm 0xA5), ([0x8C, 0x12, 0x34], .cmpxImm 0x1234),
  ([0x8D, 0xF0], .bsr 0xF0), ([0x8E, 0x12, 0x34], .ldxImm 0x1234)] = true := by decide

theorem test_decode_page1_column9 : decodesTo [
  ([0x90, 0x9B], .subaDir 0x9B), ([0x91, 0x9B], .cmpaDir 0x9B), ([0x92, 0x9B], .sbcaDir 0x9B),
  ([0x93, 0x9B], .subdDir 0x9B), ([0x94, 0x9B], .andaDir 0x9B), ([0x95, 0x9B], .bitaDir 0x9B),
  ([0x96, 0x9B], .ldaDir 0x9B), ([0x97, 0x9B], .staDir 0x9B), ([0x98, 0x9B], .eoraDir 0x9B),
  ([0x99, 0x9B], .adcaDir 0x9B), ([0x9A, 0x9B], .oraDir 0x9B), ([0x9B, 0x9B], .addaDir 0x9B),
  ([0x9C, 0x9B], .cmpxDir 0x9B), ([0x9D, 0x9B], .jsrDir 0x9B), ([0x9E, 0x9B], .ldxDir 0x9B),
  ([0x9F, 0x9B], .stxDir 0x9B)] = true := by decide

theorem test_decode_page1_columnA : decodesTo [
  ([0xA0, 0x3E], .subaIdx (.off5 .y 0x1E)), ([0xA1, 0x3E], .cmpaIdx (.off5 .y 0x1E)),
  ([0xA2, 0x3E], .sbcaIdx (.off5 .y 0x1E)), ([0xA3, 0x3E], .subdIdx (.off5 .y 0x1E)),
  ([0xA4, 0x3E], .andaIdx (.off5 .y 0x1E)), ([0xA5, 0x3E], .bitaIdx (.off5 .y 0x1E)),
  ([0xA6, 0x3E], .ldaIdx (.off5 .y 0x1E)), ([0xA7, 0x3E], .staIdx (.off5 .y 0x1E)),
  ([0xA8, 0x3E], .eoraIdx (.off5 .y 0x1E)), ([0xA9, 0x3E], .adcaIdx (.off5 .y 0x1E)),
  ([0xAA, 0x3E], .oraIdx (.off5 .y 0x1E)), ([0xAB, 0x3E], .addaIdx (.off5 .y 0x1E)),
  ([0xAC, 0x3E], .cmpxIdx (.off5 .y 0x1E)), ([0xAD, 0x3E], .jsrIdx (.off5 .y 0x1E)),
  ([0xAE, 0x3E], .ldxIdx (.off5 .y 0x1E)), ([0xAF, 0x3E], .stxIdx (.off5 .y 0x1E))] = true := by decide

theorem test_decode_page1_columnB : decodesTo [
  ([0xB0, 0x20, 0x01], .subaExt 0x2001), ([0xB1, 0x20, 0x01], .cmpaExt 0x2001), ([0xB2, 0x20, 0x01], .sbcaExt 0x2001),
  ([0xB3, 0x20, 0x01], .subdExt 0x2001), ([0xB4, 0x20, 0x01], .andaExt 0x2001), ([0xB5, 0x20, 0x01], .bitaExt 0x2001),
  ([0xB6, 0x20, 0x01], .ldaExt 0x2001), ([0xB7, 0x20, 0x01], .staExt 0x2001), ([0xB8, 0x20, 0x01], .eoraExt 0x2001),
  ([0xB9, 0x20, 0x01], .adcaExt 0x2001), ([0xBA, 0x20, 0x01], .oraExt 0x2001), ([0xBB, 0x20, 0x01], .addaExt 0x2001),
  ([0xBC, 0x20, 0x01], .cmpxExt 0x2001), ([0xBD, 0x20, 0x01], .jsrExt 0x2001), ([0xBE, 0x20, 0x01], .ldxExt 0x2001),
  ([0xBF, 0x20, 0x01], .stxExt 0x2001)] = true := by decide

theorem test_decode_page1_columnC : decodesTo [
  ([0xC0, 0xA5], .subbImm 0xA5), ([0xC1, 0xA5], .cmpbImm 0xA5), ([0xC2, 0xA5], .sbcbImm 0xA5),
  ([0xC3, 0x12, 0x34], .adddImm 0x1234), ([0xC4, 0xA5], .andbImm 0xA5), ([0xC5, 0xA5], .bitbImm 0xA5),
  ([0xC6, 0xA5], .ldbImm 0xA5), ([0xC8, 0xA5], .eorbImm 0xA5), ([0xC9, 0xA5], .adcbImm 0xA5),
  ([0xCA, 0xA5], .orbImm 0xA5), ([0xCB, 0xA5], .addbImm 0xA5), ([0xCC, 0x12, 0x34], .lddImm 0x1234),
  ([0xCE, 0x12, 0x34], .lduImm 0x1234)] = true := by decide

theorem test_decode_page1_columnD : decodesTo [
  ([0xD0, 0x9B], .subbDir 0x9B), ([0xD1, 0x9B], .cmpbDir 0x9B), ([0xD2, 0x9B], .sbcbDir 0x9B),
  ([0xD3, 0x9B], .adddDir 0x9B), ([0xD4, 0x9B], .andbDir 0x9B), ([0xD5, 0x9B], .bitbDir 0x9B),
  ([0xD6, 0x9B], .ldbDir 0x9B), ([0xD7, 0x9B], .stbDir 0x9B), ([0xD8, 0x9B], .eorbDir 0x9B),
  ([0xD9, 0x9B], .adcbDir 0x9B), ([0xDA, 0x9B], .orbDir 0x9B), ([0xDB, 0x9B], .addbDir 0x9B),
  ([0xDC, 0x9B], .lddDir 0x9B), ([0xDD, 0x9B], .stdDir 0x9B), ([0xDE, 0x9B], .lduDir 0x9B),
  ([0xDF, 0x9B], .stuDir 0x9B)] = true := by decide

theorem test_decode_page1_columnE : decodesTo [
  ([0xE0, 0x3E], .subbIdx (.off5 .y 0x1E)), ([0xE1, 0x3E], .cmpbIdx (.off5 .y 0x1E)),
  ([0xE2, 0x3E], .sbcbIdx (.off5 .y 0x1E)), ([0xE3, 0x3E], .adddIdx (.off5 .y 0x1E)),
  ([0xE4, 0x3E], .andbIdx (.off5 .y 0x1E)), ([0xE5, 0x3E], .bitbIdx (.off5 .y 0x1E)),
  ([0xE6, 0x3E], .ldbIdx (.off5 .y 0x1E)), ([0xE7, 0x3E], .stbIdx (.off5 .y 0x1E)),
  ([0xE8, 0x3E], .eorbIdx (.off5 .y 0x1E)), ([0xE9, 0x3E], .adcbIdx (.off5 .y 0x1E)),
  ([0xEA, 0x3E], .orbIdx (.off5 .y 0x1E)), ([0xEB, 0x3E], .addbIdx (.off5 .y 0x1E)),
  ([0xEC, 0x3E], .lddIdx (.off5 .y 0x1E)), ([0xED, 0x3E], .stdIdx (.off5 .y 0x1E)),
  ([0xEE, 0x3E], .lduIdx (.off5 .y 0x1E)), ([0xEF, 0x3E], .stuIdx (.off5 .y 0x1E))] = true := by decide

theorem test_decode_page1_columnF : decodesTo [
  ([0xF0, 0x20, 0x01], .subbExt 0x2001), ([0xF1, 0x20, 0x01], .cmpbExt 0x2001), ([0xF2, 0x20, 0x01], .sbcbExt 0x2001),
  ([0xF3, 0x20, 0x01], .adddExt 0x2001), ([0xF4, 0x20, 0x01], .andbExt 0x2001), ([0xF5, 0x20, 0x01], .bitbExt 0x2001),
  ([0xF6, 0x20, 0x01], .ldbExt 0x2001), ([0xF7, 0x20, 0x01], .stbExt 0x2001), ([0xF8, 0x20, 0x01], .eorbExt 0x2001),
  ([0xF9, 0x20, 0x01], .adcbExt 0x2001), ([0xFA, 0x20, 0x01], .orbExt 0x2001), ([0xFB, 0x20, 0x01], .addbExt 0x2001),
  ([0xFC, 0x20, 0x01], .lddExt 0x2001), ([0xFD, 0x20, 0x01], .stdExt 0x2001), ([0xFE, 0x20, 0x01], .lduExt 0x2001),
  ([0xFF, 0x20, 0x01], .stuExt 0x2001)] = true := by decide

theorem test_decode_page2_low : decodesTo [
  ([0x10, 0x21, 0x12, 0x34], .lbrn 0x1234), ([0x10, 0x22, 0x12, 0x34], .lbhi 0x1234),
  ([0x10, 0x23, 0x12, 0x34], .lbls 0x1234), ([0x10, 0x24, 0x12, 0x34], .lbcc 0x1234),
  ([0x10, 0x25, 0x12, 0x34], .lbcs 0x1234), ([0x10, 0x26, 0x12, 0x34], .lbne 0x1234),
  ([0x10, 0x27, 0x12, 0x34], .lbeq 0x1234), ([0x10, 0x28, 0x12, 0x34], .lbvc 0x1234),
  ([0x10, 0x29, 0x12, 0x34], .lbvs 0x1234), ([0x10, 0x2A, 0x12, 0x34], .lbpl 0x1234),
  ([0x10, 0x2B, 0x12, 0x34], .lbmi 0x1234), ([0x10, 0x2C, 0x12, 0x34], .lbge 0x1234),
  ([0x10, 0x2D, 0x12, 0x34], .lblt 0x1234), ([0x10, 0x2E, 0x12, 0x34], .lbgt 0x1234),
  ([0x10, 0x2F, 0x12, 0x34], .lble 0x1234), ([0x10, 0x3F], .swi2)] = true := by decide

theorem test_decode_page2_high : decodesTo [
  ([0x10, 0x83, 0x12, 0x34], .cmpdImm 0x1234), ([0x10, 0x8C, 0x12, 0x34], .cmpyImm 0x1234),
  ([0x10, 0x8E, 0x12, 0x34], .ldyImm 0x1234), ([0x10, 0x93, 0x9B], .cmpdDir 0x9B),
  ([0x10, 0x9C, 0x9B], .cmpyDir 0x9B), ([0x10, 0x9E, 0x9B], .ldyDir 0x9B), ([0x10, 0x9F, 0x9B], .styDir 0x9B),
  ([0x10, 0xA3, 0x3E], .cmpdIdx (.off5 .y 0x1E)), ([0x10, 0xAC, 0x3E], .cmpyIdx (.off5 .y 0x1E)),
  ([0x10, 0xAE, 0x3E], .ldyIdx (.off5 .y 0x1E)), ([0x10, 0xAF, 0x3E], .styIdx (.off5 .y 0x1E)),
  ([0x10, 0xB3, 0x20, 0x01], .cmpdExt 0x2001), ([0x10, 0xBC, 0x20, 0x01], .cmpyExt 0x2001),
  ([0x10, 0xBE, 0x20, 0x01], .ldyExt 0x2001), ([0x10, 0xBF, 0x20, 0x01], .styExt 0x2001),
  ([0x10, 0xCE, 0x12, 0x34], .ldsImm 0x1234), ([0x10, 0xDE, 0x9B], .ldsDir 0x9B), ([0x10, 0xDF, 0x9B], .stsDir 0x9B),
  ([0x10, 0xEE, 0x3E], .ldsIdx (.off5 .y 0x1E)), ([0x10, 0xEF, 0x3E], .stsIdx (.off5 .y 0x1E)),
  ([0x10, 0xFE, 0x20, 0x01], .ldsExt 0x2001), ([0x10, 0xFF, 0x20, 0x01], .stsExt 0x2001)] = true := by decide

theorem test_decode_page3 : decodesTo [
  ([0x11, 0x3F], .swi3), ([0x11, 0x83, 0x12, 0x34], .cmpuImm 0x1234), ([0x11, 0x8C, 0x12, 0x34], .cmpsImm 0x1234),
  ([0x11, 0x93, 0x9B], .cmpuDir 0x9B), ([0x11, 0x9C, 0x9B], .cmpsDir 0x9B),
  ([0x11, 0xA3, 0x3E], .cmpuIdx (.off5 .y 0x1E)), ([0x11, 0xAC, 0x3E], .cmpsIdx (.off5 .y 0x1E)),
  ([0x11, 0xB3, 0x20, 0x01], .cmpuExt 0x2001), ([0x11, 0xBC, 0x20, 0x01], .cmpsExt 0x2001)] = true := by decide
/-- Every mode of the indexed postbyte (30_encoding.md R99 to R109). -/
theorem test_decode_indexed_postbytes : decodesTo [
  ([0xA6, 0x10], .ldaIdx (.off5 .x 0x10)), ([0xA6, 0x7F], .ldaIdx (.off5 .s 0x1F)), ([0xA6, 0xA4], .ldaIdx (.zero .y false)),
  ([0xA6, 0xD4], .ldaIdx (.zero .u true)), ([0xA6, 0x88, 0x80], .ldaIdx (.off8 .x false 0x80)),
  ([0xA6, 0xF8, 0x7F], .ldaIdx (.off8 .s true 0x7F)), ([0xA6, 0xC9, 0x12, 0x34], .ldaIdx (.off16 .u false 0x1234)),
  ([0xA6, 0xB9, 0x12, 0x34], .ldaIdx (.off16 .y true 0x1234)), ([0xA6, 0x86], .ldaIdx (.accA .x false)),
  ([0xA6, 0x95], .ldaIdx (.accB .x true)), ([0xA6, 0xEB], .ldaIdx (.accD .s false)), ([0xA6, 0x80], .ldaIdx (.inc1 .x)),
  ([0xA6, 0xB1], .ldaIdx (.inc2 .y true)), ([0xA6, 0xC2], .ldaIdx (.dec1 .u)), ([0xA6, 0xE3], .ldaIdx (.dec2 .s false)),
  ([0xA6, 0x8C, 0xFE], .ldaIdx (.pcr8 false 0xFE)), ([0xA6, 0xFC, 0x01], .ldaIdx (.pcr8 true 0x01)),
  ([0xA6, 0xAD, 0xDF, 0xEE], .ldaIdx (.pcr16 false 0xDFEE)), ([0xA6, 0x9F, 0xF0, 0x00], .ldaIdx (.extInd 0xF000))] = true := by
  decide

/-- An instruction that ends at $FFFF and wraps to $0000, by its window (30_encoding.md R125). -/
theorem test_window_wraps :
    (State.place { State.reset with pc := 0xFFFF } 0xFFFF [0x86, 0x5A]).window = ⟨0x86, 0x5A, 0, 0, 0⟩ := by decide

/-- A two-byte opcode as a word of the table: bit 0 is bit 0 of the prefix. -/
theorem test_table_word : decodeTableWord 16 0x3F11 = some .swi3 := by decide

theorem test_fetch_word : goesTo (step (State.reset.withFetchWord 8 0x4C)) (fun t => t.a == 1 && t.pc == 1) = true := by
  decide

/-- The listing of 30_encoding.md R106: LEAX at $FCC3. -/
theorem test_disassembles_leax :
    (State.place { State.reset with pc := 0xFCC3 } 0xFCC3 [0x30, 0x8D, 0xE2, 0x8A]).disassemble = some "LEAX $DF51,PCR" := by
  decide

/-! ## Single steps -/

/-- 40_8bit_accumulator_memory.md R131. -/
theorem test_adca : goesTo (step { loaded [0x89, 0x01] with a := 0x0F, cc := 0x01 })
    (fun t => t.a == 0x11 && t.cc == 0x20 && t.pc == 0x1002) = true := by decide

/-- 40_8bit_accumulator_memory.md R133. -/
theorem test_adda_overflows : goesTo (step { loaded [0x8B, 0x80] with a := 0x80, cc := 0 })
    (fun t => t.a == 0 && t.cc == 0x07) = true := by decide

/-- 40_8bit_accumulator_memory.md R137. -/
theorem test_asl_memory : goesTo (step ({ loaded [0x78, 0x20, 0x00] with cc := 0 }.place 0x2000 [0xC1]))
    (fun t => t.mem.read 0x2000 == 0x82) = true := by decide

/-- 40_8bit_accumulator_memory.md R145. -/
theorem test_clr_memory : goesTo (step ({ loaded [0x7F, 0x20, 0x00] with cc := 0x0B }.place 0x2000 [0x5A]))
    (fun t => t.mem.read 0x2000 == 0 && t.cc == 0x04 && t.mem.wf) = true := by decide

/-- 40_8bit_accumulator_memory.md R153: after $19 + $19. -/
theorem test_daa : goesTo (step { loaded [0x19] with a := 0x32, cc := 0x20 }) (fun t => t.a == 0x38) = true := by
  decide

/-- 40_8bit_accumulator_memory.md R159. -/
theorem test_exg_with_cc : goesTo (step { loaded [0x1E, 0x8A] with a := 0x50, cc := 0x05 })
    (fun t => t.a == 0x05 && t.cc == 0x50) = true := by decide

/-- 40_8bit_accumulator_memory.md R190: PC reads as the address of the next instruction. -/
theorem test_tfr_pc : goesTo (step (loaded [0x1F, 0x51])) (fun t => t.x == 0x1002 && t.pc == 0x1002) = true := by
  decide

/-- 40_8bit_accumulator_memory.md R169. -/
theorem test_mul : goesTo (step { loaded [0x3D] with a := 0xFF, b := 0xFF, cc := 0x0A })
    (fun t => t.a == 0xFE && t.b == 0x01 && t.cc == 0x0A) = true := by decide

/-- 41_16bit_accumulator_memory.md R206. -/
theorem test_subd : goesTo (step { loaded [0x83, 0x00, 0x01] with cc := 0x20 })
    (fun t => t.a == 0xFF && t.b == 0xFF && t.cc == 0x29) = true := by decide

/-- 41_16bit_accumulator_memory.md R204. -/
theorem test_sex : goesTo (step { loaded [0x1D] with a := 0x12, b := 0x80, cc := 0x02 })
    (fun t => t.a == 0xFF && t.b == 0x80 && t.cc == 0x0A) = true := by decide

/-- 42_index_stack_pointer.md R221. -/
theorem test_cmps : goesTo (step { loaded [0x11, 0x8C, 0x7F, 0xFF] with cc := 0 })
    (fun t => t.sp == 0x8000 && t.cc == 0x02 && !t.nmiArmed) = true := by decide

/-- 42_index_stack_pointer.md R225: LDS arms NMI. -/
theorem test_lds : goesTo (step { loaded [0x10, 0xCE, 0x80, 0x00] with sp := 0, cc := 0x0F })
    (fun t => t.sp == 0x8000 && t.cc == 0x09 && t.nmiArmed) = true := by decide

/-- 42_index_stack_pointer.md R241. -/
theorem test_abx : goesTo (step { loaded [0x3A] with x := 0x10FF, b := 0xFF, cc := 0 })
    (fun t => t.x == 0x11FE && t.cc == 0) = true := by decide

/-- 30_encoding.md R107: the data sheet's example of indirection. -/
theorem test_indirect : goesTo (step
      (({ loaded [0xA6, 0x98, 0x10] with x := 0xF000 }.place 0xF010 [0xF1, 0x50]).place 0xF150 [0xAA]))
    (fun t => t.a == 0xAA && t.x == 0xF000) = true := by decide

/-- 41_16bit_accumulator_memory.md R203. -/
theorem test_ldd_steps_x : goesTo (step { loaded [0xEC, 0x81] with x := 0x2000, a := 1, cc := 0 })
    (fun t => t.a == 0 && t.b == 0 && t.x == 0x2002 && t.cc == 0x04) = true := by decide

/-- 42_index_stack_pointer.md R232: the accumulator offset is signed. -/
theorem test_leay : goesTo (step { loaded [0x31, 0xA6] with y := 0x1000, a := 0x80, cc := 0 })
    (fun t => t.y == 0x0F80 && t.cc == 0) = true := by decide

/-- 20_memory.md R66: the stacking order. -/
theorem test_pshs_all : goesTo (step { loaded [0x34, 0xFF] with
      a := 0x11, b := 0x22, dp := 0x33, x := 0x4455, y := 0x6677, u := 0x8899, cc := 0x85 })
    (fun t => t.sp == 0x7FF4 &&
      bytesAt t 0x7FF4 12 == [0x85, 0x11, 0x22, 0x33, 0x44, 0x55, 0x66, 0x77, 0x88, 0x99, 0x10, 0x02]) = true := by
  decide

/-- 42_index_stack_pointer.md R236: PULU of S and PC, both from the U stack. -/
theorem test_pulu_s_pc : goesTo (step ({ loaded [0x37, 0xC0] with u := 0x7000 }.place 0x7000 [0x12, 0x34, 0x56, 0x78]))
    (fun t => t.sp == 0x1234 && t.pc == 0x5678 && t.u == 0x7004 && t.nmiArmed) = true := by decide

/-- 43_branches.md R292: the data sheet's example, by the rule. -/
theorem test_lbsr : goesTo (step (State.place { State.reset with pc := 0x8000, sp := 0xF000 } 0x8000 [0x17, 0x20, 0x00]))
    (fun t => t.pc == 0xA003 && t.sp == 0xEFFE && bytesAt t 0xEFFE 2 == [0x80, 0x03]) = true := by decide

/-- 43_branches.md R295: BGT with Z = 0 and N = V. -/
theorem test_bgt : goesTo (step { loaded [0x2E, 0x10] with cc := 0x0A }) (fun t => t.pc == 0x1012) = true := by decide

/-- 44_miscellaneous.md R304. -/
theorem test_jsr_steps_s : goesTo (step (loaded [0xAD, 0xE1]))
    (fun t => t.pc == 0x8000 && t.sp == 0x8000 && bytesAt t 0x8000 2 == [0x10, 0x02]) = true := by decide

/-- A state with a value of its own in every register. -/
def busy (bs : List Byte) : State :=
  { loaded bs with a := 0x11, b := 0x22, dp := 0x33, x := 0x4455, y := 0x6677, u := 0x8899 }

/-- 44_miscellaneous.md R314. -/
theorem test_swi : goesTo (step ({ busy [0x3F] with cc := 0x05 }.place 0xFFFA [0xE0, 0x00]))
    (fun t => t.pc == 0xE000 && t.cc == 0xD5 && t.sp == 0x7FF4 &&
      bytesAt t 0x7FF4 12 == [0x85, 0x11, 0x22, 0x33, 0x44, 0x55, 0x66, 0x77, 0x88, 0x99, 0x10, 0x01]) = true := by
  decide

/-- 44_miscellaneous.md R302: the CWAI of the enable-IRQ mask. -/
theorem test_cwai : goesTo (step { busy [0x3C, 0xEF] with cc := 0x55 })
    (fun t => t.runState == .cwaiWaiting && t.cc == 0xC5 && t.sp == 0x7FF4 && bytesAt t 0x7FF4 1 == [0xC5]) = true := by
  decide

/-- 44_miscellaneous.md R312: a frame with E clear. -/
theorem test_rti_short : goesTo (step ((busy [0x3B]).place 0x8000 [0x05, 0x12, 0x34]))
    (fun t => t.cc == 0x05 && t.pc == 0x1234 && t.sp == 0x8003 && t.a == 0x11) = true := by decide

/-- 60_exceptions.md R340. -/
theorem test_nmi : goesTo (step ({ busy [] with
      pc := 0x1234, cc := 0x05, nmiArmed := true, inputs := [{ Inputs.quiet with nmiEdge := true }] }.place 0xFFFC [0xF0, 0x00]))
    (fun t => t.pc == 0xF000 && t.cc == 0xD5 && t.sp == 0x7FF4 && !t.nmiPending &&
      bytesAt t 0x7FF4 12 == [0x85, 0x11, 0x22, 0x33, 0x44, 0x55, 0x66, 0x77, 0x88, 0x99, 0x12, 0x34]) = true := by
  decide

/-- 60_exceptions.md R341. -/
theorem test_firq : goesTo (step ({ busy [] with
      pc := 0x1234, cc := 0x85, inputs := [{ Inputs.quiet with firq := true }] }.place 0xFFF6 [0xF1, 0x00]))
    (fun t => t.pc == 0xF100 && t.cc == 0x55 && t.sp == 0x7FFD && bytesAt t 0x7FFD 3 == [0x05, 0x12, 0x34]) = true := by
  decide

/-- 60_exceptions.md R342. -/
theorem test_irq : goesTo (step ({ busy [] with
      pc := 0x1234, cc := 0x05, inputs := [{ Inputs.quiet with irq := true }] }.place 0xFFF8 [0xF2, 0x00]))
    (fun t => t.pc == 0xF200 && t.cc == 0x95 && t.sp == 0x7FF4) = true := by decide

/-- 70_reset_and_hazards.md R380, on a waiting machine. -/
theorem test_reset : goesTo (step ({ busy [] with
      runState := .cwaiWaiting, cc := 0x8F, inputs := [{ Inputs.quiet with reset := true }] }.place 0xFFFE [0xC0, 0xDE]))
    (fun t => t.pc == 0xC0DE && t.dp == 0 && t.runState == .running && t.trace.take 1 == [⟨.vector, 0xFFFF, 0xDE, false⟩]) = true := by
  decide

/-- 20_memory.md R62, R64: a read-modify-write reads with BUSY high and then writes; three bytes are fetched before. -/
theorem test_accesses_of_inc : goesTo (step (loaded [0x7C, 0x20, 0x00])) (fun t => t.trace.take 5 ==
      [⟨.store, 0x2000, 0x01, false⟩, ⟨.load, 0x2000, 0x00, true⟩, ⟨.fetch, 0x1002, 0x00, false⟩,
        ⟨.fetch, 0x1001, 0x20, false⟩, ⟨.fetch, 0x1000, 0x7C, false⟩]) = true := by decide

/-- 20_memory.md R63, R64, R107: an indirect address and a word stored, each high byte first with BUSY high. -/
theorem test_accesses_of_std_indirect : goesTo (step ({ loaded [0xED, 0x94] with x := 0x2000, a := 1, b := 2 }.place 0x2000 [0x30]))
    (fun t => t.trace.take 4 ==
      [⟨.store, 0x3001, 0x02, false⟩, ⟨.store, 0x3000, 0x01, true⟩, ⟨.pointer, 0x2001, 0x00, false⟩,
        ⟨.pointer, 0x2000, 0x30, true⟩]) = true := by decide

/-- LDX $2000, with $AABB written there by another master just before the second byte is read. -/
def tornLoad : State := disturbed (loaded [0xBE, 0x20, 0x00]) 4 ⟨[(0x2000, 0xAA), (0x2001, 0xBB)], none⟩

/-- 20_memory.md R72, 60_exceptions.md R372: by DMA/BREQ the write comes between the two bytes. -/
theorem test_dma_tears_a_word : goesTo (step (onPlatform tornLoad .mc6809 true true)) (fun t => t.x == 0x00BB) = true := by
  decide

/-- 20_memory.md R64: by TSC it does not if BUSY is honoured, and does if it is not. -/
theorem test_busy_keeps_a_word : goesTo (step (onPlatform tornLoad .mc6809e true true)) (fun t => t.x == 0x0000) = true := by
  decide
theorem test_tsc_tears_a_word : goesTo (step (onPlatform tornLoad .mc6809e true false)) (fun t => t.x == 0x00BB) = true := by
  decide

/-- 60_exceptions.md R371: in the CWAI wait another master has the bus by DMA/BREQ only; in the syncing state it has it anyway. -/
theorem test_bus_in_waits :
    let s := { State.reset with inputs := [{ Inputs.quiet with busWrites := [(0x2000, 0x77)] }] }
    let wrote (t : State) : Bool := t.mem.read 0x2000 == 0x77
    goesTo (step { s with runState := .cwaiWaiting }) (fun t => !wrote t) = true ∧
    goesTo (step (onPlatform { s with runState := .cwaiWaiting } .mc6809 true false)) wrote = true ∧
    goesTo (step { s with runState := .syncing }) wrote = true := by decide

/-- 20_memory.md R62: a write of another master between the read and the write of INC $2000 is lost. -/
theorem test_dma_within_inc :
    goesTo (step (onPlatform (disturbed (loaded [0x7C, 0x20, 0x00]) 4 ⟨[(0x2000, 0x77)], none⟩) .mc6809 true false))
      (fun t => t.mem.read 0x2000 == 0x01) = true := by decide

/-- A device that drives what it holds, holds one more after a read, and after a write the byte written. -/
def counter : Device := ⟨.held, .add .held (.const 1), .data⟩

/-- A state with `counter` at $2000 to $20FF, and at the reset vector. -/
def withCounter (s : State) (held : Nat) : State :=
  let s := mapped s [⟨0x2000, 0x20FF, .device⟩, ⟨0xFFFE, 0xFFFF, .device⟩]
  { s with bus := { s.bus with platform := { s.bus.platform with device := some counter }, held := held } }

/-- 20_memory.md R59, R61: a load reads the device once for each byte, with its side effect. -/
theorem test_device_function_read : goesTo (step (withCounter (loaded [0xBE, 0x20, 0x00]) 0x41))
    (fun t => t.x == 0x4142 && t.bus.held == 0x43) = true := by decide

/-- 20_memory.md R57, R61: CLR reads the device and then writes it. -/
theorem test_device_function_clr : goesTo (step (withCounter (loaded [0x7F, 0x20, 0x00]) 0x41))
    (fun t => t.bus.held == 0 && t.trace.take 2 == [⟨.store, 0x2000, 0, false⟩, ⟨.load, 0x2000, 0x41, true⟩]) = true := by
  decide

/-- 60_exceptions.md R370: a device at the reset vector gives the pc. -/
theorem test_device_function_at_reset :
    ((withCounter State.reset 0xC0).resetTo ⟨0, 0, 0, 0, 0, 0, 0⟩).pc = 0xC0C1 := by decide

/-- 20_memory.md R59: the byte that the world outside has a device drive. -/
theorem test_device_read : goesTo (step (mapped (disturbed (loaded [0xB6, 0x20, 0x00]) 3 ⟨[], some 0x5A⟩) [⟨0x2000, 0x20FF, .device⟩]))
    (fun t => t.a == 0x5A) = true := by decide

/-- 30_encoding.md R120, R121, R122, R123: the four ways bytes have no meaning. -/
theorem test_illegal_opcode : stopsWith (step (loaded [0x87])) (.illegalOpcode 0x1000 [0x87]) = true := by decide
theorem test_illegal_page2_opcode : stopsWith (step (loaded [0x10, 0x86])) (.illegalOpcode 0x1000 [0x10, 0x86]) = true := by
  decide
theorem test_illegal_postbyte : stopsWith (step (loaded [0xA6, 0x90])) (.illegalPostbyte 0x1000 0x90) = true := by
  decide
theorem test_undefined_register_code :
    stopsWith (step (loaded [0x1E, 0x80])) (.undefinedRegisterCode 0x1000 0x80) = true := by decide

/-- A store to ROM changes nothing, a write of the unlisted byte leaves no entry (20_memory.md R60, log entry 1). -/
theorem test_store_to_rom : goesTo (step (mapped { loaded [0x97, 0x00] with a := 0x5A } [⟨0x0000, 0x0FFF, .rom⟩]))
    (fun t => t.mem.read 0 == 0 && t.mem == (loaded [0x97, 0x00]).mem) = true := by decide

/-! ## States and operands that meet the hypotheses of the statements -/

/-- A running machine at $1000 with one entry of inputs. -/
def prompted (inp : Inputs) : State := { State.reset with pc := 0x1000, sp := 0x8000, inputs := [inp] }

theorem test_meets_DecodeOfEncode : (Instr.exg .pc .d).wf = true ∧ (Instr.ldyIdx (.off16 .s true 0x8000)).wf = true := by decide

theorem test_meets_DecodedInstructionIsWellFormed :
    decode (Window.ofList [0x12]) = .instr .nop 1 ∧
    decode (Window.ofList [0x10, 0xAE, 0xB9, 0xFF, 0xFF]) = .instr (.ldyIdx (.off16 .y true 0xFFFF)) 5 := by decide

theorem test_meets_UnusedOpcodesAreIllegal :
    decode ⟨0x01, 0, 0, 0, 0⟩ = .illegalOpcode [0x01] ∧ decode ⟨0xCF, 0, 0, 0, 0⟩ = .illegalOpcode [0xCF] ∧
    decode ⟨0x10, 0x20, 0, 0, 0⟩ = .illegalOpcode [0x10, 0x20] ∧
    decode ⟨0x11, 0xFF, 0, 0, 0⟩ = .illegalOpcode [0x11, 0xFF] := by decide

/-- Each clause at the ends of its lists: first byte, second byte after $10 and after $11, and a postbyte refused. -/
theorem test_meets_IllegalIndexedPostbytes :
    decode ⟨0x30, 0x87, 0, 0, 0⟩ = .illegalPostbyte 0x87 ∧ decode ⟨0xEF, 0xFF, 0, 0, 0⟩ = .illegalPostbyte 0xFF ∧
    decode ⟨0x10, 0xA3, 0x90, 0, 0⟩ = .illegalPostbyte 0x90 ∧ decode ⟨0x11, 0xAC, 0x8F, 0, 0⟩ = .illegalPostbyte 0x8F := by
  decide

/-- Both sides of each boundary of the legal codes: 5 and 6, 8 and B, C, and a pair of unlike widths. -/
theorem test_meets_UndefinedRegisterCodes :
    decode ⟨0x1F, 0x55, 0, 0, 0⟩ = .instr (.tfr .pc .pc) 2 ∧
    decode ⟨0x1F, 0x56, 0, 0, 0⟩ = .undefinedRegisterCode 0x56 ∧
    decode ⟨0x1E, 0x8B, 0, 0, 0⟩ = .instr (.exg .a .dp) 2 ∧ decode ⟨0x1E, 0xBC, 0, 0, 0⟩ = .undefinedRegisterCode 0xBC ∧
    decode ⟨0x1E, 0x58, 0, 0, 0⟩ = .undefinedRegisterCode 0x58 := by decide

theorem test_meets_StepRunsDecodedInstruction :
    let s := loaded [0x3D]
    s.proceeds ∧ s.runState = .running ∧ s.nmiReady = false ∧ s.firqReady = false ∧ s.irqReady = false ∧
    decode (Window.ofList s.boundary.fetch.1) = .instr .mul 1 := ⟨⟨rfl, fun _ => rfl⟩, rfl, rfl, rfl, rfl, by decide⟩

/-- The same with a masked FIRQ and IRQ and an unarmed NMI: none is ready. -/
theorem test_meets_StepRunsDecodedInstruction_with_masked_requests :
    let s := prompted ⟨false, true, true, true, true, false, [], []⟩
    s.proceeds ∧ s.runState = .running ∧ s.nmiReady = false ∧ s.firqReady = false ∧ s.irqReady = false ∧
    decode (Window.ofList s.boundary.fetch.1) = .instr (.negDir 0) 2 :=
  ⟨⟨rfl, fun _ => rfl⟩, rfl, rfl, by decide, by decide, by decide⟩

theorem test_meets_UndefinedEncodingsStop :
    (let s := loaded [0x01]
     s.proceeds ∧ s.runState = .running ∧ s.nmiReady = false ∧ s.firqReady = false ∧ s.irqReady = false ∧
      decode (Window.ofList s.boundary.fetch.1) = .illegalOpcode [0x01]) ∧
    decode (Window.ofList (loaded [0xA6, 0xFF]).boundary.fetch.1) = .illegalPostbyte 0xFF ∧
    decode (Window.ofList (loaded [0x1F, 0x66]).boundary.fetch.1) = .undefinedRegisterCode 0x66 ∧ XReg.is8 .a ≠ XReg.is8 .d :=
  ⟨⟨⟨rfl, fun _ => rfl⟩, rfl, rfl, rfl, rfl, by decide⟩, by decide, by decide, by decide⟩

theorem test_meets_WellFormedInstructionsComplete : (Instr.tfr .cc .a).wf = true := by decide

theorem test_meets_InvKeptByStep :
    Inv { loaded [0x13] with runState := .running } ∧ goesTo (step (loaded [0x13])) (fun t => t.runState == .syncing) = true ∧
    Inv { loaded [0x13] with runState := .cwaiWaiting, cc := 0x80 } := by
  refine ⟨⟨by decide, fun h => (nomatch h), by decide⟩, by decide, ⟨by decide, fun _ => by decide, by decide⟩⟩

theorem test_meets_ResetStep : (prompted { Inputs.quiet with reset := true }).nextInputs.reset = true := rfl

theorem test_meets_LaunchStartsAfterReset :
    let l : Launch := { Launch.empty with memory := [(0xFFFF, 0x12), (0xFFFF, 0x34)] }
    Settled l.loaded 0xFFFE ∧ Settled l.loaded (0xFFFE + 1) ∧ Flag.e ∉ [Flag.f, Flag.i] ∧
    l.memory = (0xFFFF, 0x12) :: [(0xFFFF, 0x34)] ∧ (0xFFFE : Word) ∉ l.memory.map Prod.fst :=
  ⟨⟨Or.inl rfl, Or.inl rfl⟩, ⟨Or.inl rfl, Or.inl rfl⟩, by decide, rfl, by decide⟩

theorem test_meets_NmiEntry :
    let s := { prompted { Inputs.quiet with nmiEdge := true, firq := true } with nmiArmed := true }
    s.proceeds ∧ s.runState ≠ .cwaiWaiting ∧ s.nmiReady = true := ⟨⟨rfl, fun _ => rfl⟩, by decide, rfl⟩

/-- In the syncing state, where a halt does not count. -/
theorem test_meets_NmiEntry_syncing :
    let s := { prompted { Inputs.quiet with halt := true } with nmiArmed := true, nmiPending := true, runState := .syncing }
    s.proceeds ∧ s.runState ≠ .cwaiWaiting ∧ s.nmiReady = true := ⟨⟨rfl, fun h => nomatch h⟩, by decide, rfl⟩

theorem test_meets_FirqEntry :
    let s := { prompted { Inputs.quiet with firq := true, irq := true } with cc := 0 }
    s.proceeds ∧ s.runState ≠ .cwaiWaiting ∧ s.nmiReady = false ∧ s.firqReady = true :=
  ⟨⟨rfl, fun _ => rfl⟩, by decide, rfl, by decide⟩

theorem test_meets_IrqEntry :
    let s := { prompted { Inputs.quiet with firq := true, irq := true } with cc := 0x40 }
    s.proceeds ∧ s.runState ≠ .cwaiWaiting ∧ s.nmiReady = false ∧ s.firqReady = false ∧ s.irqReady = true :=
  ⟨⟨rfl, fun _ => rfl⟩, by decide, rfl, by decide, by decide⟩

/-- The four clauses: NMI, FIRQ, IRQ, none. -/
theorem test_meets_CwaiWaitEndsInEntry :
    let s := { prompted { Inputs.quiet with nmiEdge := true, firq := true, irq := true } with runState := .cwaiWaiting }
    s.nextInputs.reset = false ∧ s.runState = .cwaiWaiting ∧ { s with nmiArmed := true }.nmiReady = true ∧
    (s.nmiReady = false ∧ { s with cc := 0x80 }.firqReady = true) ∧
    ({ s with cc := 0xC0 }.firqReady = false ∧ { s with cc := 0xC0 }.irqReady = true) ∧
    ({ s with cc := 0xD0 }.firqReady = false ∧ { s with cc := 0xD0 }.irqReady = false) :=
  ⟨rfl, rfl, rfl, ⟨rfl, by decide⟩, ⟨by decide, by decide⟩, ⟨by decide, by decide⟩⟩

/-- A masked request with an unarmed NMI latched; a short pulse; nothing at all. -/
theorem test_meets_SyncContinuesOnMaskedRequest :
    let s := fun inp => { prompted inp with runState := .syncing }
    let a := s { Inputs.quiet with firq := true, nmiEdge := true }
    let b := s { Inputs.quiet with shortPulse := true }
    let c := s Inputs.quiet
    (a.nextInputs.reset = false ∧ a.runState = .syncing ∧ a.nmiReady = false ∧ a.firqReady = false ∧ a.irqReady = false ∧
      a.nextInputs.firq = true) ∧
    (b.nmiReady = false ∧ b.firqReady = false ∧ b.irqReady = false ∧ b.nextInputs.shortPulse = true) ∧
    (c.nmiReady = false ∧ c.firqReady = false ∧ c.irqReady = false ∧ (c.nmiPending || c.nextInputs.nmiEdge) = false) := by
  decide

theorem test_meets_UnarmedNmiInSync :
    let s := { prompted { Inputs.quiet with nmiEdge := true } with runState := .syncing }
    s.nextInputs.reset = false ∧ s.runState = .syncing ∧ s.nmiArmed = false ∧
    (s.nmiPending || s.nextInputs.nmiEdge) = true ∧ s.firqReady = false ∧ s.irqReady = false := by decide

theorem test_meets_HaltedStep :
    let s := prompted { Inputs.quiet with halt := true, nmiEdge := true }
    s.nextInputs.reset = false ∧ s.nextInputs.halt = true ∧ s.runState = .running := ⟨rfl, rfl, rfl⟩

/-- Between instructions: an address not written, a written address that is ROM, and the last of two writes to one. -/
theorem test_meets_BusMastersWriteBetweenAccesses :
    let s := mapped (prompted { Inputs.quiet with busWrites := [(0xFFFF, 0x01), (0x0000, 0x02), (0xFFFF, 0x03)] })
      [⟨0x0000, 0x00FF, .rom⟩]
    (0x1000 : Word) ∉ s.nextInputs.busWrites.map Prod.fst ∧ kindAt s.memMap 0x0000 ≠ .ram ∧ s.mem.wf = true ∧
    s.nextInputs.busWrites = [(0xFFFF, 0x01), (0x0000, 0x02)] ++ [(0xFFFF, 0x03)] ∧ kindAt s.memMap 0xFFFF = .ram ∧
    s.runState ≠ .cwaiWaiting := by
  decide

/-- In the CWAI wait: a platform without another master's input, and one with DMA/BREQ. -/
theorem test_meets_BusMastersWriteBetweenAccesses_cwai :
    let s := { prompted { Inputs.quiet with busWrites := [(0xFFFF, 0x01)] } with runState := .cwaiWaiting }
    s.runState = .cwaiWaiting ∧ s.bus.platform.admits s.bus.busy = false ∧
    (onPlatform s .mc6809 true false).bus.platform.admits (onPlatform s .mc6809 true false).bus.busy = true := by decide

/-- A state whose next access another master precedes with two writes to $FFFF, BUSY having been high. -/
def pressed (version : Version) (honours : Bool) : State :=
  let s := (onPlatform State.reset version true honours).didRead .load true 0x2000
  { s with bus := { s.bus with cycles := [⟨[(0xFFFF, 0x01), (0xFFFF, 0x03)], none⟩] } }

/-- Between accesses: each version; a write let in and one not; an address not written; BUSY honoured. -/
theorem test_meets_BusMastersWriteBetweenAccesses_within :
    (pressed .mc6809 true).bus.platform.version = .mc6809 ∧ (pressed .mc6809e true).bus.platform.version = .mc6809e ∧
    (pressed .mc6809 true).mem.wf = true ∧ (pressed .mc6809 true).bus.busy = true ∧
    (pressed .mc6809 true).bus.platform.admits (pressed .mc6809 true).bus.busy = true ∧
    (pressed .mc6809e false).bus.platform.admits (pressed .mc6809e false).bus.busy = true ∧
    (pressed .mc6809e true).bus.platform.admits (pressed .mc6809e true).bus.busy = false ∧
    (pressed .mc6809 true).bus.cycle.writes = [(0xFFFF, 0x01)] ++ [(0xFFFF, 0x03)] ∧
    kindAt (pressed .mc6809 true).memMap 0xFFFF = .ram ∧
    (0x0000 : Word) ∉ (pressed .mc6809 true).bus.cycle.writes.map Prod.fst ∧
    (pressed .mc6809e true).bus.platform.honoursBusy = true := by decide

theorem test_meets_NmiArmedBySLoadsOnly :
    goesTo (exec (.exg .s .x) State.reset) (fun t => t.nmiArmed) = true ∧
    goesTo (exec .rti State.reset) (fun t => !t.nmiArmed) = true := by decide

theorem test_meets_DirectPageWriters :
    goesTo (exec (.pulu ⟨true, true, true, true, false, true, true, true⟩) State.reset) (fun t => t.dp == 0) = true ∧
    writesDp (.pulu ⟨true, true, true, true, false, true, true, true⟩) = false := by decide

/-- The three clauses: no software interrupt, SWI2, SWI. -/
theorem test_meets_MaskAndEntireFlagWriters :
    goesTo (exec (.lddImm 0) State.reset) (fun t => t.pc == 0) = true ∧ writesCc (.lddImm 0) = false ∧
    isSwi (.lddImm 0) = false ∧
    goesTo (exec .swi2 State.reset) (fun t => t.flag .e) = true ∧ writesCc .swi2 = false ∧ Instr.swi2 ≠ .swi ∧
    writesCc .swi = false := by decide

theorem test_meets_RunStateLeftBySyncAndCwai :
    State.reset.runState = .running ∧ goesTo (exec .sync State.reset) (fun t => t.runState == .syncing) = true ∧
    goesTo (exec (.cwai 0) State.reset) (fun t => t.runState == .cwaiWaiting) = true ∧
    goesTo (exec .nop State.reset) (fun t => t.runState == .running) = true := by decide

/-- An address at the end of a device region, one beyond it, and a device read with and without a byte from outside. -/
theorem test_meets_MemoryMapDecidesAccesses :
    let s := withCounter (loaded [0x97, 0x00]) 0xFF
    let u := { s with bus := { s.bus with cycles := [⟨[], some 0x5A⟩] } }
    goesTo (step s) (fun t => t.pc == 0x1002) = true ∧ kindAt s.memMap 0x20FF ≠ .ram ∧ kindAt s.memMap 0x20FF = .device ∧
    s.bus.platform.device = some counter ∧ s.bus.cycle.data = none ∧ u.bus.cycle.data = some 0x5A ∧
    isWrite .load = false ∧ isWrite .push = true ∧ kindAt s.memMap 0x2100 ≠ .device := by decide

/-- No other master disturbs a device: none is let in, or none writes there. -/
theorem test_meets_DevicesUndisturbed :
    DevicesUndisturbed (withCounter State.reset 0) ∧
    DevicesUndisturbed (mapped (pressed .mc6809 true) [⟨0x2000, 0x20FF, .device⟩]) :=
  ⟨Or.inl rfl, Or.inr fun c hc w hw => by
    simp only [mapped, pressed, List.mem_singleton] at hc
    subst hc
    simp only [List.mem_cons, List.not_mem_nil, or_false] at hw
    rcases hw with rfl | rfl <;> decide⟩

/-- No other master may write between the accesses of `State.reset`'s platform. -/
theorem test_undisturbed (s : State) (a : Word) (h : s.bus.platform = Platform.plain) : Undisturbed s a :=
  Or.inl (by rw [h]; rfl)

/-- The invariant at a state that differs from `State.reset` in S. -/
theorem test_inv : Inv { State.reset with sp := 0x0001 } := ⟨rfl, fun h => (nomatch h), rfl⟩

/-- At the address whose next address is $0000. -/
theorem test_meets_WordsAreBigEndian :
    let s := { State.reset with sp := 0x0001 }
    Inv s ∧ kindAt s.memMap 0xFFFF = .ram ∧ kindAt s.memMap (0xFFFF + 1) = .ram ∧ Undisturbed s 0xFFFF ∧
    Undisturbed s (0xFFFF + 1) := ⟨test_inv, rfl, rfl, test_undisturbed _ _ rfl, test_undisturbed _ _ rfl⟩

/-- With the stack wrapping past $0000. -/
theorem test_meets_PullUndoesPush :
    let s := { State.reset with sp := 0x0001 }
    Inv s ∧ ∀ i, i < listSize entireState →
      kindAt s.memMap (above (s.top .s - BitVec.ofNat 16 (listSize entireState)) i) = .ram ∧
      Undisturbed s (above (s.top .s - BitVec.ofNat 16 (listSize entireState)) i) :=
  ⟨test_inv, fun _ _ => ⟨rfl, test_undisturbed _ _ rfl⟩⟩

theorem test_meets_RtiUndoesEntry :
    let s := { State.reset with sp := 0x0001 }
    Inv s ∧ ∀ i, i < 12 → kindAt s.memMap (above (s.sp - 12) i) = .ram ∧ Undisturbed s (above (s.sp - 12) i) :=
  ⟨test_inv, fun _ _ => ⟨rfl, test_undisturbed _ _ rfl⟩⟩

/-- The largest BCD bytes, $99 and $99. -/
theorem test_meets_DaaAfterAdditionIsDecimal :
    let s := { State.reset with a := 0x99, cc := 0x01 }
    (s.a.toNat / 16 ≤ 9 ∧ s.a.toNat % 16 ≤ 9) ∧
    ((s.operand8 (.imm 0x99)).toNat / 16 ≤ 9 ∧ (s.operand8 (.imm 0x99)).toNat % 16 ≤ 9) := by decide

/-- An 8-bit and a 16-bit pair; neither, one and both of them CC. -/
theorem test_meets_ExgAndTfrEffect :
    XReg.is8 .a = XReg.is8 .dp ∧ XReg.is8 .pc = XReg.is8 .d ∧ XReg.is8 .cc = XReg.is8 .b ∧
    XReg.a ≠ .cc ∧ XReg.dp ≠ .cc := by decide

/-- The clauses of `Stores`, on which the storing statements rest: an address outside, one that is not RAM, and memory in
canonical form with a byte of the list stored to RAM. -/
theorem test_meets_Stores :
    State.reset.mem.wf = true ∧ (wordBytes 0x1234)[1]? = some 0x34 ∧ kindAt State.reset.memMap (above 0xFFFF 1) = .ram ∧
    Undisturbed State.reset (above 0xFFFF 1) ∧
    (∀ i, i < (wordBytes 0x1234).length → (0x0001 : Word) ≠ above 0xFFFF i) ∧
    kindAt [⟨0x0000, 0x0000, .rom⟩] (above 0xFFFF 1) ≠ .ram := by
  refine ⟨rfl, rfl, rfl, test_undisturbed _ _ rfl, by decide, by decide⟩

/-- The other two ways to be undisturbed: not RAM, and not written. -/
theorem test_meets_Undisturbed :
    Undisturbed (mapped (pressed .mc6809 true) [⟨0xFFFF, 0xFFFF, .rom⟩]) 0xFFFF ∧ Undisturbed (pressed .mc6809 true) 0x0000 :=
  ⟨Or.inr (Or.inl (by decide)), Or.inr (Or.inr (by decide))⟩

/-- The hypotheses of `Reads` and `LoadsVector`: a byte of the list, at an address that memory decides, RAM or ROM. -/
theorem test_meets_Reads :
    ([0x12, 0x34] : List Byte)[1]? = some 0x34 ∧ Settled State.reset (above 0xFFFF 1) ∧
    Settled (mapped State.reset [⟨0xFFF0, 0xFFFF, .rom⟩]) 0xFFFE :=
  ⟨rfl, ⟨Or.inl rfl, test_undisturbed _ _ rfl⟩, ⟨Or.inr (by decide), Or.inl (by decide)⟩⟩

/-- A branch taken, one not taken, and a condition with its complement. -/
theorem test_meets_BranchEffect :
    Cond.Taken { State.reset with cc := 0x04 } .le ∧ ¬Cond.Taken { State.reset with cc := 0x04 } .gt ∧
    (Cond.gt.number.toNat % 2 = 0 ∧ Cond.le.number = Cond.gt.number + 1) := by
  refine ⟨Or.inl rfl, fun h => absurd h.1 (by decide), by decide⟩

/-- An indexed operand that is indirect and one that is not. -/
theorem test_meets_EffectiveAddresses : idxIndirect (.inc2 .x true) = true ∧ idxIndirect (.inc2 .x false) = false := by decide

/-- A frame with E set and one with E clear. -/
theorem test_meets_RtiEffect :
    goesTo (exec .rti ((loaded []).place 0x8000 [0x80])) (fun t => t.flag .e) = true ∧
    goesTo (exec .rti (loaded [])) (fun t => !t.flag .e) = true := by decide

end Sys2Proof.Machine
end

/-! # Proofs about the scope (00_scope.md): where the model stops, and that it stops nowhere else -/

namespace Sys2Proof.Machine

/-! ## EXG and TFR: the only meanings that look at their term before they complete -/

theorem exec_exg_of_like {r1 r2 : XReg} (h : r1.is8 = r2.is8) (s : State) :
    exec (.exg r1 r2) s = .next ((s.setXreg r1 (s.xreg r2)).setXreg r2 (s.xreg r1)) := if_pos (beq_iff_eq.mpr h)

theorem exec_tfr_of_like {r1 r2 : XReg} (h : r1.is8 = r2.is8) (s : State) :
    exec (.tfr r1 r2) s = .next (s.setXreg r2 (s.xreg r1)) := if_pos (beq_iff_eq.mpr h)

theorem exec_exg_of_unlike {r1 r2 : XReg} (h : r1.is8 ≠ r2.is8) (s : State) :
    exec (.exg r1 r2) s = .fault (.undefinedRegisterCode (s.pc - 2) (registersByte r1 r2)) :=
  if_neg (beq_iff_eq.not.mpr h)

theorem exec_tfr_of_unlike {r1 r2 : XReg} (h : r1.is8 ≠ r2.is8) (s : State) :
    exec (.tfr r1 r2) s = .fault (.undefinedRegisterCode (s.pc - 2) (registersByte r1 r2)) :=
  if_neg (beq_iff_eq.not.mpr h)

/-! ## The step of a running MPU that no interrupt claims -/

theorem State.boundary_pc (s : State) : s.boundary.pc = s.pc := s.boundary_reg .pc

/-- With no interrupt ready, a running MPU's action is to execute (60_exceptions.md R331). -/
theorem State.boundary_action_execute {s : State} (hrun : s.runState = .running) (hnmi : s.nmiReady = false)
    (hfirq : s.firqReady = false) (hirq : s.irqReady = false) :
    s.boundary.action s.nextInputs = .execute := by
  have hrequest : s.boundary.request s.nextInputs = none := by
    rw [s.boundary_request, hnmi, hfirq, hirq]; rfl
  unfold State.action
  rw [s.boundary_fields.1, hrun, hrequest]

theorem step_eq_execute {s : State} (hp : s.proceeds) (hrun : s.runState = .running) (hnmi : s.nmiReady = false)
    (hfirq : s.firqReady = false) (hirq : s.irqReady = false) : step s = s.boundary.execute := by
  rw [step_of_proceeds hp, State.boundary_action_execute hrun hnmi hfirq hirq]
  rfl

/-! ## Fetched bytes that are no instruction -/

theorem State.execute_of_illegalOpcode {s : State} {bs : List Byte}
    (h : decode (Window.ofList s.fetch.1) = .illegalOpcode bs) : s.execute = .fault (.illegalOpcode s.pc bs) := by
  unfold State.execute; rw [h]

theorem State.execute_of_illegalPostbyte {s : State} {pb : Byte}
    (h : decode (Window.ofList s.fetch.1) = .illegalPostbyte pb) : s.execute = .fault (.illegalPostbyte s.pc pb) := by
  unfold State.execute; rw [h]

theorem State.execute_of_undefinedRegisterCode {s : State} {pb : Byte}
    (h : decode (Window.ofList s.fetch.1) = .undefinedRegisterCode pb) :
    s.execute = .fault (.undefinedRegisterCode s.pc pb) := by
  unfold State.execute; rw [h]

/-- Settles O8: the step of bytes that are no instruction is the fetch's fault, and the boundary has not moved the pc that
the fault names; EXG and TFR answer theirs themselves. -/
theorem undefinedEncodingsStop : Obligations.UndefinedEncodingsStop := by
  refine ⟨fun s hp hrun hnmi hfirq hirq => ?_,
    fun r1 r2 s h => ⟨⟨_, exec_exg_of_unlike h s⟩, ⟨_, exec_tfr_of_unlike h s⟩⟩⟩
  rw [step_eq_execute hp hrun hnmi hfirq hirq, ← s.boundary_pc]
  exact ⟨fun _ => State.execute_of_illegalOpcode, fun _ => State.execute_of_illegalPostbyte,
    fun _ => State.execute_of_undefinedRegisterCode⟩

/-! ## Every well-formed instruction completes -/

/-- A meaning that is a shared operation completes if the operation's law gives its next state. -/
theorem exec_completes_of_spec {i : Instr} {s : State} {r : Result} {P : State → Prop} (h : exec i s = r)
    (spec : ∃ t, r = .next t ∧ P t) : ∃ t, exec i s = .next t := by
  obtain ⟨t, ht, _⟩ := spec
  exact ⟨t, h.trans ht⟩

/-- Over the shapes of a meaning: a shared operation completes by its law, EXG and TFR by the likeness of their registers,
and the rest answer a next state as they stand. -/
theorem exec_completes {i : Instr} (s : State) (hwf : i.wf = true) : ∃ t, exec i s = .next t := by
  cases exec_shape i s with
  | accOp _ _ e => exact exec_completes_of_spec e (accOp_spec _ _ _ s)
  | accTest _ _ e => exact exec_completes_of_spec e (accTest_spec _ _ _ s)
  | accStore _ e => exact exec_completes_of_spec e (accStore_spec _ _ s)
  | accModify _ _ e => exact exec_completes_of_spec e (accModify_spec _ _ s)
  | accProbe _ _ e => exact exec_completes_of_spec e (accProbe_spec _ _ s)
  | memModify _ _ e => exact exec_completes_of_spec e (memModify_spec _ _ s)
  | memProbe _ _ e => exact exec_completes_of_spec e (memProbe_spec _ _ s)
  | wideOp _ _ _ _ _ _ _ e => exact exec_completes_of_spec e (wideOp_spec _ _ _ s)
  | wideTest _ _ e => exact exec_completes_of_spec e (wideTest_spec _ _ _ s)
  | wideStore _ e => exact exec_completes_of_spec e (wideStore_spec _ _ s)
  | leaStack _ _ _ _ _ _ e => exact exec_completes_of_spec e (leaStack_spec _ _ s)
  | leaIndex _ _ _ _ _ _ e => exact exec_completes_of_spec e (leaIndex_spec _ _ s)
  | branch _ e => exact exec_completes_of_spec e (branch_spec _ _ s)
  | branchToSubroutine _ e => exact exec_completes_of_spec e (branchToSubroutine_spec _ s)
  | jump _ e => exact exec_completes_of_spec e (jump_spec _ s)
  | jumpToSubroutine _ e => exact exec_completes_of_spec e (jumpToSubroutine_spec _ s)
  | exg e => subst e; exact ⟨_, exec_exg_of_like (beq_iff_eq.mp hwf) s⟩
  | tfr e => subst e; exact ⟨_, exec_tfr_of_like (beq_iff_eq.mp hwf) s⟩
  | orcc e | andcc e | cwai e | sync e | nop e | daa e | mul e | sex e | abx e | pshs e | puls e | pshu e | pulu e
  | rts e | rti e | swi e | swi2 e | swi3 e => subst e; exact ⟨_, rfl⟩

/-- Settles O9. -/
theorem wellFormedInstructionsComplete : Obligations.WellFormedInstructionsComplete :=
  fun _ s hwf => exec_completes s hwf

end Sys2Proof.Machine


/-! # Proofs about the programmer's model (10_state.md): who writes DP, the masks and the run state; pushes and transfers; the
step of an instruction; reset and launch -/

namespace Sys2Proof.Machine

/-! ## A register of EXG and TFR written -/

/-- The registers but CC that a register of EXG and TFR is made of. -/
def xregRegs : XReg → List Reg
  | .d => [.a, .b]
  | .x => [.x]
  | .y => [.y]
  | .u => [.u]
  | .s => [.s]
  | .pc => [.pc]
  | .a => [.a]
  | .b => [.b]
  | .dp => [.dp]
  | .cc => []

/-- An 8-bit register keeps the low byte of what it is given; a 16-bit one all of it. -/
theorem State.setXreg_xreg_same (s : State) (r : XReg) (v : Word) (hv : r.is8 = true → zext8 (loByte v) = v) :
    (s.setXreg r v).xreg r = v := by
  cases r with
  | d => exact word_hi_lo v
  | x | y | u | s | pc => rfl
  | a | b | cc | dp => exact hv rfl

theorem State.zext8_loByte_xreg (s : State) {r : XReg} (h : r.is8 = true) : zext8 (loByte (s.xreg r)) = s.xreg r := by
  cases r with
  | a | b | cc | dp => exact congrArg zext8 (loByte_zext8 _)
  | d | x | y | u | s | pc => cases h

/-- A register given the value of another of its width holds that value. -/
theorem State.setXreg_xreg_of_like {s u : State} {r q : XReg} (h : r.is8 = q.is8) :
    (s.setXreg r (u.xreg q)).xreg r = u.xreg q :=
  s.setXreg_xreg_same r _ fun hr => u.zext8_loByte_xreg (h ▸ hr)

theorem State.setXreg_keepsRegs (s : State) (r : XReg) (v : Word) : KeepsRegs s (s.setXreg r v) (xregRegs r) := by
  intro q hq
  cases r <;> cases q <;> first | rfl | exact absurd (by simp [xregRegs]) hq

/-- Another register of the same width shares nothing with the one written. -/
theorem State.setXreg_xreg_other (s : State) {r q : XReg} (v : Word) (hne : q ≠ r) (h : q.is8 = r.is8) :
    (s.setXreg r v).xreg q = s.xreg q := by
  cases r <;> cases q <;> first | rfl | exact absurd rfl hne | exact Bool.noConfusion h

theorem State.setXreg_nmiArmed (s : State) (r : XReg) (v : Word) :
    (s.setXreg r v).nmiArmed = (s.nmiArmed || r == .s) := by
  cases r with
  | s => exact (Bool.or_true _).symm
  | _ => exact (Bool.or_false _).symm

theorem State.setXreg_keepsControl (s : State) (r : XReg) (v : Word) : KeepsControl s (s.setXreg r v) (r == .s) :=
  ⟨s.setXreg_nmiArmed r v, s.setXreg_nmiPending r v, s.setXreg_runState r v⟩

theorem State.setXreg_keepsPlatform (s : State) (r : XReg) (v : Word) : KeepsPlatform s (s.setXreg r v) := by
  simp [KeepsPlatform]

theorem State.setXreg_dp {s : State} {r : XReg} {v : Word} (h : r ≠ .dp) : (s.setXreg r v).dp = s.dp := by
  cases r with
  | dp => exact absurd rfl h
  | _ => rfl

theorem State.setXreg_cc {s : State} {r : XReg} {v : Word} (h : r ≠ .cc) : (s.setXreg r v).cc = s.cc := by
  cases r with
  | cc => exact absurd rfl h
  | _ => rfl

theorem KeepsRegs.trans {s t u : State} {rs qs : List Reg} (h : KeepsRegs s t rs) (h' : KeepsRegs t u qs) :
    KeepsRegs s u (rs ++ qs) := fun r hr => by
  rw [List.mem_append, not_or] at hr
  exact (h' r hr.2).trans (h r hr.1)

/-! ## What all but a few listed instructions leave alone -/

/-- An instruction's next state obeys the law of the operation that it is. -/
theorem exec_next_of_spec {i : Instr} {s t : State} {r : Result} {P : State → Prop} (h : exec i s = .next t)
    (e : exec i s = r) (spec : ∃ u, r = .next u ∧ P u) : P t := by
  obtain ⟨u, hu, hP⟩ := spec
  cases Host.Outcome.next.inj (hu.symm.trans (e.symm.trans h))
  exact hP

theorem KeepsRegs.dp {s t : State} {rs : List Reg} (h : KeepsRegs s t rs) (hdp : .dp ∉ rs) : t.dp = s.dp := by
  have hz : zext8 t.dp = zext8 s.dp := h .dp hdp
  rw [← loByte_zext8 t.dp, hz, loByte_zext8]

/-- DP, the masks and E, and the run state, which few instructions write, are kept; so are the NMI latch and the platform. -/
structure KeepsSystem (s t : State) : Prop where
  dp : t.dp = s.dp
  masks : KeepsMasks s.cc t.cc
  runState : t.runState = s.runState
  nmiPending : t.nmiPending = s.nmiPending
  platform : KeepsPlatform s t

theorem KeepsSystem.refl (s : State) : KeepsSystem s s := ⟨rfl, ⟨rfl, rfl, rfl⟩, rfl, rfl, rfl, rfl, rfl⟩

theorem KeepsSystem.after8 (s : State) (o : Src8) : KeepsSystem s (s.after8 o) := by
  constructor <;> simp [KeepsMasks, KeepsPlatform]

theorem KeepsSystem.after16 (s : State) (o : Src16) : KeepsSystem s (s.after16 o) := by
  constructor <;> simp [KeepsMasks, KeepsPlatform]

theorem KeepsSystem.afterEA (s : State) (o : Mem) : KeepsSystem s (s.afterEA o) := by
  constructor <;> simp [KeepsMasks, KeepsPlatform]

theorem KeepsSystem.afterIdx (s : State) (ix : Idx) : KeepsSystem s (s.afterIdx ix) := KeepsSystem.afterEA s (.idx ix)

/-- An operation that begins in `m`, its operand read, and writes neither DP nor the masks. -/
theorem KeepsSystem.trans_op {s m t : State} {rs : List Reg} {arms : Bool} (h : KeepsSystem s m) (hr : KeepsRegs m t rs)
    (hdp : .dp ∉ rs) (hc : KeepsControl m t arms) (hp : KeepsPlatform m t) (hm : KeepsMasks s.cc t.cc) :
    KeepsSystem s t := by
  obtain ⟨_, hpending, hrun⟩ := hc
  obtain ⟨hplatform, hinputs, htick⟩ := hp
  obtain ⟨hplatform', hinputs', htick'⟩ := h.platform
  exact ⟨(hr.dp hdp).trans h.dp, hm, hrun.trans h.runState, hpending.trans h.nmiPending,
    hplatform.trans hplatform', hinputs.trans hinputs', htick.trans htick'⟩

/-- The same for an operation that writes no flag at all. -/
theorem KeepsSystem.trans_keeps {s m t : State} {rs : List Reg} (h : KeepsSystem s m) (hk : Keeps m t rs [])
    (hdp : .dp ∉ rs) : KeepsSystem s t := by
  obtain ⟨hr, hf, hc, hp⟩ := hk
  obtain ⟨he, hfirq, hirq⟩ := h.masks
  exact h.trans_op hr hdp hc hp ⟨(hf .e nofun).trans he, (hf .f nofun).trans hfirq, (hf .i nofun).trans hirq⟩

theorem Acc.dp_notMem (r : Acc) : Reg.dp ∉ [r.reg] := by cases r <;> decide

theorem Reg16.dp_notMem (r : Reg16) : Reg.dp ∉ r.regs := by cases r <;> decide

theorem State.pushRegs_keepsSystem (s : State) (k : Stack) (l : RegList) : KeepsSystem s (s.pushRegs k l) :=
  (KeepsSystem.refl s).trans_keeps (s.pushRegs_keeps k l) (by cases k <;> decide)

/-! ## The frame of every instruction -/

/-- The run state in which an instruction leaves a running MPU (10_state.md R43). -/
def runStateAfter : Instr → RunState
  | .sync => .syncing
  | .cwai _ => .cwaiWaiting
  | _ => .running

theorem runStateAfter_of_ne {i : Instr} (hsync : i ≠ .sync) (hcwai : ∀ m, i ≠ .cwai m) : runStateAfter i = .running := by
  unfold runStateAfter
  split
  · exact absurd rfl hsync
  · exact absurd rfl (hcwai _)
  · rfl

/-- What an instruction keeps of DP, of E and the masks, of the run state, the NMI latch and the platform, by the lists of
Forms that it is on. -/
structure ExecFrame (i : Instr) (s t : State) : Prop where
  dp : writesDp i = false → t.dp = s.dp
  entire : writesCc i = false → isSwi i = false → t.flag .e = s.flag .e
  masks : writesCc i = false → i ≠ .swi → t.flag .f = s.flag .f ∧ t.flag .i = s.flag .i
  runState : s.runState = .running → t.runState = runStateAfter i
  nmiPending : t.nmiPending = s.nmiPending
  platform : KeepsPlatform s t

/-- Whatever the lists say, a step that keeps all of it meets the frame, if the instruction does not stop the MPU. -/
theorem KeepsSystem.frame {i : Instr} {s t : State} (h : KeepsSystem s t) (hsync : i ≠ .sync) (hcwai : ∀ m, i ≠ .cwai m) :
    ExecFrame i s t where
  dp _ := h.dp
  entire _ _ := h.masks.1
  masks _ _ := h.masks.2
  runState hrun := by rw [h.runState, hrun, runStateAfter_of_ne hsync hcwai]
  nmiPending := h.nmiPending
  platform := h.platform

theorem KeepsSystem.frame_of_plain {i : Instr} {s t : State} (h : KeepsSystem s t) (plain : Plain i) : ExecFrame i s t := by
  obtain ⟨_, _, _, _, hsync, hcwai⟩ := plain
  exact h.frame hsync hcwai

/-- An instruction that moves values into whole registers, DP and CC among them only if the lists say so. -/
theorem ExecFrame.of_moves {i : Instr} {s t : State} (hdp : writesDp i = false → t.dp = s.dp)
    (hcc : writesCc i = false → t.cc = s.cc) (hsync : i ≠ .sync) (hcwai : ∀ m, i ≠ .cwai m)
    (hrun : t.runState = s.runState) (hpending : t.nmiPending = s.nmiPending) (hp : KeepsPlatform s t) :
    ExecFrame i s t where
  dp := hdp
  entire h _ := State.flag_congr (hcc h) .e
  masks h _ := ⟨State.flag_congr (hcc h) .f, State.flag_congr (hcc h) .i⟩
  runState h := by rw [hrun, h, runStateAfter_of_ne hsync hcwai]
  nmiPending := hpending
  platform := hp

theorem exg_frame {r1 r2 : XReg} {s t : State} (h : exec (.exg r1 r2) s = .next t) : ExecFrame (.exg r1 r2) s t := by
  by_cases hw : r1.is8 = r2.is8
  · obtain rfl := Host.Outcome.next.inj ((exec_exg_of_like hw s).symm.trans h)
    refine .of_moves (fun hd => ?_) (fun hc => ?_) nofun nofun (by simp) (by simp) (by simp [KeepsPlatform])
    · simp only [writesDp, Bool.or_eq_false_iff, beq_eq_false_iff_ne] at hd
      rw [State.setXreg_dp hd.2, State.setXreg_dp hd.1]
    · simp only [writesCc, Bool.or_eq_false_iff, beq_eq_false_iff_ne] at hc
      rw [State.setXreg_cc hc.2, State.setXreg_cc hc.1]
  · cases (exec_exg_of_unlike hw s).symm.trans h

theorem tfr_frame {r1 r2 : XReg} {s t : State} (h : exec (.tfr r1 r2) s = .next t) : ExecFrame (.tfr r1 r2) s t := by
  by_cases hw : r1.is8 = r2.is8
  · obtain rfl := Host.Outcome.next.inj ((exec_tfr_of_like hw s).symm.trans h)
    exact .of_moves (fun hd => State.setXreg_dp (beq_eq_false_iff_ne.mp hd))
      (fun hc => State.setXreg_cc (beq_eq_false_iff_ne.mp hc)) nofun nofun (by simp) (by simp) (by simp [KeepsPlatform])
  · cases (exec_tfr_of_unlike hw s).symm.trans h

theorem State.pullRegs_frame {i : Instr} (s : State) (k : Stack) (l : RegList) (hdp : writesDp i = l.dp)
    (hcc : writesCc i = l.cc) (hsync : i ≠ .sync) (hcwai : ∀ m, i ≠ .cwai m) : ExecFrame i s (s.pullRegs k l) := by
  obtain ⟨_, _, _, cc, _, _, dp, _⟩ := s.pullRegs_spec k l
  obtain ⟨⟨_, hpending, hrun⟩, hp, _⟩ := s.pullRegs_control k l
  refine .of_moves (fun h => ?_) (fun h => ?_) hsync hcwai hrun hpending hp
  · rw [dp, ← hdp, h]; rfl
  · rw [cc, ← hcc, h]; rfl

/-- Of the software interrupts only SWI sets the masks, and the MPU runs on (60_exceptions.md R343 to R345). -/
theorem State.enter_frame {i : Instr} {e : Exc} (s : State) (hnmi : e ≠ .nmi) (hswi : isSwi i = true)
    (hmasks : i ≠ .swi → e = .swi2 ∨ e = .swi3) (hsync : i ≠ .sync) (hcwai : ∀ m, i ≠ .cwai m) :
    ExecFrame i s (s.enter e true) where
  dp _ := s.enter_dp e true
  entire _ h := absurd (hswi.symm.trans h) (by decide)
  masks _ h := by
    obtain ⟨_, _, _, hflag, _⟩ := s.enter_spec e
    rcases hmasks h with rfl | rfl <;> simp [hflag]
  runState _ := by rw [State.enter_runState, runStateAfter_of_ne hsync hcwai]
  nmiPending := by simp [hnmi]
  platform := by simp [KeepsPlatform]

theorem cwai_frame {m : Byte} {s t : State} (h : exec (.cwai m) s = .next t) : ExecFrame (.cwai m) s t := by
  obtain ⟨_, hrun, _, _, hr, _, hpending, hp⟩ := exec_next_of_spec h rfl (execCwai_spec m s)
  exact ⟨fun _ => hr.dp (by decide), nofun, nofun, fun _ => hrun, hpending, hp⟩

theorem rti_frame (s : State) : ExecFrame .rti s s.returnFromInterrupt := by
  obtain ⟨⟨_, hpending, hrun⟩, hp, _⟩ := s.returnFromInterrupt_keeps
  exact .of_moves nofun nofun nofun nofun hrun hpending hp

/-- Every instruction meets its frame: the shared operations write neither DP nor the masks, and the listed instructions are
looked at one by one. -/
theorem exec_frame {i : Instr} {s t : State} (h : exec i s = .next t) : ExecFrame i s t := by
  cases exec_shape i s with
  | accOp keeps plain e =>
    obtain ⟨_, hcc, hr, hc, hp, _⟩ := exec_next_of_spec h e (accOp_spec _ _ _ s)
    exact ((KeepsSystem.after8 s _).trans_op hr (Acc.dp_notMem _) hc hp (hcc ▸ keeps _ _ _ _)).frame_of_plain plain
  | accTest keeps plain e =>
    obtain ⟨_, hcc, hr, hc, hp, _⟩ := exec_next_of_spec h e (accTest_spec _ _ _ s)
    exact ((KeepsSystem.after8 s _).trans_op hr nofun hc hp (hcc ▸ keeps _ _ _ _)).frame_of_plain plain
  | accStore plain e =>
    obtain ⟨hcc, hr, hc, hp, _⟩ := exec_next_of_spec h e (accStore_spec _ _ s)
    exact ((KeepsSystem.afterEA s _).trans_op hr nofun hc hp (by simp [hcc, KeepsMasks])).frame_of_plain plain
  | accModify keeps plain e =>
    obtain ⟨_, hcc, hr, hc, hp, _⟩ := exec_next_of_spec h e (accModify_spec _ _ s)
    exact ((KeepsSystem.refl s).trans_op hr (Acc.dp_notMem _) hc hp (hcc ▸ keeps _ _ _)).frame_of_plain plain
  | accProbe keeps plain e =>
    obtain ⟨hcc, hr, hc, hp, _⟩ := exec_next_of_spec h e (accProbe_spec _ _ s)
    exact ((KeepsSystem.refl s).trans_op hr nofun hc hp (hcc ▸ keeps _ _ _)).frame_of_plain plain
  | memModify keeps plain e =>
    obtain ⟨hcc, hr, hc, hp, _⟩ := exec_next_of_spec h e (memModify_spec _ _ s)
    exact ((KeepsSystem.afterEA s _).trans_op hr nofun hc hp (hcc ▸ keeps _ _ _)).frame_of_plain plain
  | memProbe keeps plain e =>
    obtain ⟨hcc, hr, hc, hp, _⟩ := exec_next_of_spec h e (memProbe_spec _ _ s)
    exact ((KeepsSystem.afterEA s _).trans_op hr nofun hc hp (hcc ▸ keeps _ _ _)).frame_of_plain plain
  | wideOp keeps _ _ _ _ hsync hcwai e =>
    obtain ⟨_, hcc, hr, hc, hp, _⟩ := exec_next_of_spec h e (wideOp_spec _ _ _ s)
    exact ((KeepsSystem.after16 s _).trans_op hr (Reg16.dp_notMem _) hc hp (hcc ▸ keeps _ _ _)).frame hsync hcwai
  | wideTest keeps plain e =>
    obtain ⟨hcc, hr, hc, hp, _⟩ := exec_next_of_spec h e (wideTest_spec _ _ _ s)
    exact ((KeepsSystem.after16 s _).trans_op hr nofun hc hp (hcc ▸ keeps _ _ _)).frame_of_plain plain
  | wideStore plain e =>
    obtain ⟨hcc, hr, hc, hp, _⟩ := exec_next_of_spec h e (wideStore_spec _ _ s)
    exact ((KeepsSystem.afterEA s _).trans_op hr nofun hc hp (by simp [hcc, KeepsMasks])).frame_of_plain plain
  | leaStack _ _ _ _ hsync hcwai e =>
    obtain ⟨_, hcc, hr, hc, hp, _⟩ := exec_next_of_spec h e (leaStack_spec _ _ s)
    exact ((KeepsSystem.afterIdx s _).trans_op hr (Reg16.dp_notMem _) hc hp (by simp [hcc, KeepsMasks])).frame hsync hcwai
  | leaIndex _ _ _ _ hsync hcwai e =>
    obtain ⟨_, hcc, hr, hc, hp, _⟩ := exec_next_of_spec h e (leaIndex_spec _ _ s)
    exact ((KeepsSystem.afterIdx s _).trans_op hr (Reg16.dp_notMem _) hc hp (by simp [hcc, KeepsMasks])).frame hsync hcwai
  | branch plain e =>
    obtain ⟨_, _, hk, _⟩ := exec_next_of_spec h e (branch_spec _ _ s)
    exact ((KeepsSystem.refl s).trans_keeps hk (by decide)).frame_of_plain plain
  | branchToSubroutine plain e =>
    obtain ⟨_, _, _, hk⟩ := exec_next_of_spec h e (branchToSubroutine_spec _ s)
    exact ((KeepsSystem.refl s).trans_keeps hk (by decide)).frame_of_plain plain
  | jump plain e =>
    obtain ⟨_, hk, _⟩ := exec_next_of_spec h e (jump_spec _ s)
    exact ((KeepsSystem.afterEA s _).trans_keeps hk (by decide)).frame_of_plain plain
  | jumpToSubroutine plain e =>
    obtain ⟨_, _, _, hk⟩ := exec_next_of_spec h e (jumpToSubroutine_spec _ s)
    exact ((KeepsSystem.afterEA s _).trans_keeps hk (by decide)).frame_of_plain plain
  | rts e =>
    subst e
    obtain ⟨_, _, _, hk⟩ := exec_next_of_spec h rfl (execRts_spec s)
    exact ((KeepsSystem.refl s).trans_keeps hk (by decide)).frame nofun nofun
  | pshs e => subst e; obtain rfl := Host.Outcome.next.inj h; exact (s.pushRegs_keepsSystem .s _).frame nofun nofun
  | pshu e => subst e; obtain rfl := Host.Outcome.next.inj h; exact (s.pushRegs_keepsSystem .u _).frame nofun nofun
  | puls e => subst e; obtain rfl := Host.Outcome.next.inj h; exact s.pullRegs_frame .s _ rfl rfl nofun nofun
  | pulu e => subst e; obtain rfl := Host.Outcome.next.inj h; exact s.pullRegs_frame .u _ rfl rfl nofun nofun
  | exg e => subst e; exact exg_frame h
  | tfr e => subst e; exact tfr_frame h
  | cwai e => subst e; exact cwai_frame h
  | rti e => subst e; obtain rfl := Host.Outcome.next.inj h; exact rti_frame s
  | swi e => subst e; obtain rfl := Host.Outcome.next.inj h; exact s.enter_frame nofun rfl (absurd rfl) nofun nofun
  | swi2 e =>
    subst e; obtain rfl := Host.Outcome.next.inj h; exact s.enter_frame nofun rfl (fun _ => .inl rfl) nofun nofun
  | swi3 e =>
    subst e; obtain rfl := Host.Outcome.next.inj h; exact s.enter_frame nofun rfl (fun _ => .inr rfl) nofun nofun
  | orcc e | andcc e =>
    subst e; obtain rfl := Host.Outcome.next.inj h
    exact .of_moves (fun _ => rfl) nofun nofun nofun rfl rfl ⟨rfl, rfl, rfl⟩
  | sync e =>
    subst e; obtain rfl := Host.Outcome.next.inj h
    exact ⟨fun _ => rfl, fun _ _ => rfl, fun _ _ => ⟨rfl, rfl⟩, fun _ => rfl, rfl, rfl, rfl, rfl⟩
  | nop e | abx e =>
    subst e; obtain rfl := Host.Outcome.next.inj h
    exact .of_moves (fun _ => rfl) (fun _ => rfl) nofun nofun rfl rfl ⟨rfl, rfl, rfl⟩
  | daa e | mul e | sex e =>
    subst e; obtain rfl := Host.Outcome.next.inj h
    refine KeepsSystem.frame ⟨rfl, ?_, rfl, rfl, rfl, rfl, rfl⟩ nofun nofun
    simp [KeepsMasks, aluDaa, aluMul, aluSex]

/-- Settles O24. -/
theorem directPageWriters : Obligations.DirectPageWriters := fun _ _ _ h => (exec_frame h).dp

/-- Settles O25. -/
theorem maskAndEntireFlagWriters : Obligations.MaskAndEntireFlagWriters :=
  fun _ _ _ h hcc => ⟨(exec_frame h).entire hcc, (exec_frame h).masks hcc⟩

/-- Settles O26. -/
theorem runStateLeftBySyncAndCwai : Obligations.RunStateLeftBySyncAndCwai :=
  fun _ _ _ h hrun => ⟨(exec_frame h).runState hrun, (exec_frame h).nmiPending, (exec_frame h).platform⟩

/-! ## PSHS and PSHU -/

/-- Settles O51, by the laws of a push of registers; the two instructions differ in the stack only. -/
theorem pushEffect : Obligations.PushEffect := by
  intro k l s
  have effect : (s.pushRegs k l).top k = s.top k - BitVec.ofNat 16 (listSize l) ∧
      Stores s (s.pushRegs k l) ((s.pushRegs k l).top k) (s.pushedBytes k l) ∧
      Makes s (s.pushRegs k l) (accesses .push ((s.pushRegs k l).top k) (s.pushedBytes k l)) ∧
      Keeps s (s.pushRegs k l) [k.reg] [] :=
    ⟨s.pushRegs_top k l, s.pushRegs_stores k l, (s.pushRegs_pushed k l).makes, s.pushRegs_keeps k l⟩
  cases k with
  | s => exact ⟨rfl, decodeRegisterList_registerListByte l, _, rfl, effect⟩
  | u => exact ⟨rfl, decodeRegisterList_registerListByte l, _, rfl, effect⟩

/-! ## The step of an instruction -/

theorem State.execute_of_instr {s : State} {i : Instr} {n : Nat}
    (h : decode (Window.ofList s.fetch.1) = .instr i n) : s.execute = exec i s.fetch.2 := by
  unfold State.execute; rw [h]

/-- Settles O7: nothing claims the boundary, so the step executes, and the law of the fetch says the rest. -/
theorem stepRunsDecodedInstruction : Obligations.StepRunsDecodedInstruction := by
  intro s i n hp hrun hnmi hfirq hirq bytes mid hd
  obtain ⟨⟨run, reads, hpc, keeps⟩, hlen⟩ := s.boundary.fetch_spec
  obtain ⟨hn, _⟩ := hlen i n hd
  rw [s.boundary_pc] at run reads hpc
  exact ⟨(step_eq_execute hp hrun hnmi hfirq hirq).trans (State.execute_of_instr hd), hn, hn ▸ hpc, reads, run.makes, keeps,
    run.keepsMemory⟩

/-! ## Reset and launch -/

/-- A reset reads the two bytes of its vector and makes no other access. -/
theorem State.resetTo_run (s : State) (d : ResetDraws) :
    s.Run (s.resetTo d) [⟨.vector, 0xFFFF, (s.didRead .vector true 0xFFFE).readByte 0xFFFF, false⟩,
      ⟨.vector, 0xFFFE, s.readByte 0xFFFE, true⟩] [] :=
  (s.didReadWord_run .vector resetVector).congr rfl rfl

theorem State.resetTo_loadsVector (s : State) (d : ResetDraws) : LoadsVector s (s.resetTo d) 0xFFFE [] :=
  (State.Run.refl (s := s) rfl).loadsVector resetVector rfl rfl

/-- A reset sets F and I and leaves the other flags as drawn (10_state.md R45, R46). -/
theorem State.resetTo_flag (s : State) (d : ResetDraws) (k : Flag) :
    (s.resetTo d).flag k = if k = .i then true else if k = .f then true else getFlag d.cc k := by
  simp [State.flag_def]

theorem State.resetTo_f (s : State) (d : ResetDraws) : (s.resetTo d).flag .f = true := s.resetTo_flag d .f

theorem State.resetTo_i (s : State) (d : ResetDraws) : (s.resetTo d).flag .i = true := s.resetTo_flag d .i

theorem inv_resetTo {s : State} (d : ResetDraws) (h : s.mem.wf = true) : Inv (s.resetTo d) :=
  ⟨(s.resetTo_run d).wf h, nofun, rfl⟩

theorem step_of_reset {s : State} (h : s.nextInputs.reset = true) : step s = .next s.beginStep.doReset := if_pos h

/-- Settles O11. -/
theorem invAtReset : Obligations.InvAtReset :=
  ⟨⟨State.reset_wf, nofun, rfl⟩, fun l => inv_resetTo l.draws l.initialMemory_wf⟩

/-- Settles O12, by the laws of a reset from the state in which the step begins. -/
theorem resetStep : Obligations.ResetStep := by
  intro s h
  refine ⟨_, step_of_reset h, ?_⟩
  unfold State.doReset
  exact ⟨State.resetTo_f _ _, State.resetTo_i _ _, rfl, rfl, rfl, rfl, State.resetTo_loadsVector _ _,
    (State.resetTo_run _ _).keepsMemory, by simp, rfl, rfl⟩

/-- The first pair of the list decides its address. -/
theorem Launch.initialByte_of_head {l : Launch} {a : Word} {v : Byte} {rest : List (Word × Byte)}
    (h : l.memory = (a, v) :: rest) : l.initialByte a = v := by
  simp [Launch.initialByte, h, givenByte]

theorem givenByte_of_notMem {m : List (Word × Byte)} {a : Word} (h : a ∉ m.map Prod.fst) : givenByte m a = none := by
  induction m with
  | nil => rfl
  | cons p rest ih =>
    simp only [List.map_cons, List.mem_cons, not_or] at h
    rw [givenByte, if_neg (Ne.symm h.1), ih h.2]

theorem Launch.initialByte_of_notMem {l : Launch} {a : Word} (h : a ∉ l.memory.map Prod.fst) :
    l.initialByte a = l.drawn a := by
  rw [Launch.initialByte, givenByte_of_notMem h, Option.getD_none]

/-- Settles O13: the start is the reset of the loaded machine. -/
theorem launchStartsAfterReset : Obligations.LaunchStartsAfterReset := by
  intro l
  have start : l.start = l.loaded.resetTo l.draws := rfl
  rw [start]
  refine ⟨rfl, State.resetTo_f _ _, State.resetTo_i _ _, rfl, rfl, rfl, State.resetTo_platform _ _, rfl,
    State.resetTo_loadsVector _ _, (State.resetTo_run _ _).keepsMemory, rfl, rfl, rfl, rfl, rfl, rfl, rfl, rfl, rfl, rfl,
    fun k hk => ?_, l.initialMemory_read, fun _ _ _ => Launch.initialByte_of_head, fun _ => Launch.initialByte_of_notMem⟩
  simp only [List.mem_cons, List.not_mem_nil, or_false, not_or] at hk
  rw [State.resetTo_flag, if_neg hk.2, if_neg hk.1]

/-! ## EXG and TFR -/

/-- Settles O44: two writes of registers for EXG, of which the second leaves the first alone unless the registers are one;
one write for TFR. -/
theorem exgAndTfrEffect : Obligations.ExgAndTfrEffect := by
  intro r1 r2 s hw regs
  refine ⟨⟨rfl, _, exec_exg_of_like hw s, ?_, State.setXreg_xreg_of_like hw.symm,
      (s.setXreg_keepsRegs r1 _).trans (State.setXreg_keepsRegs _ r2 _), fun h1 h2 => KeepsFlags.of_cc ?_ [], ?_,
      by simp [KeepsPlatform], KeepsMemory.refl_of_bus (by simp), Makes.of_bus (by simp)⟩,
    ⟨rfl, _, exec_tfr_of_like hw s, State.setXreg_xreg_of_like hw.symm, s.setXreg_keepsRegs r2 _,
      fun h2 => KeepsFlags.of_cc (State.setXreg_cc h2) [], s.setXreg_keepsControl r2 _, s.setXreg_keepsPlatform r2 _,
      KeepsMemory.refl_of_bus (by simp), Makes.of_bus (by simp)⟩⟩
  · by_cases hne : r1 = r2
    · subst hne; exact State.setXreg_xreg_of_like rfl
    · rw [State.setXreg_xreg_other _ _ hne hw, State.setXreg_xreg_of_like hw]
  · rw [State.setXreg_cc h2, State.setXreg_cc h1]
  · refine ⟨?_, by simp, by simp⟩
    rw [State.setXreg_nmiArmed, State.setXreg_nmiArmed, Bool.or_assoc]

end Sys2Proof.Machine

/-! # Proofs about memory (20_memory.md): the invariant of every step; what stands at an address and who writes it; the
read-modify-write instructions; words; the stacks, the interrupts and the return from them -/

namespace Sys2Proof.Machine

/-! ## The invariant -/

/-- The boundary writes memory canonically, makes no access and leaves CC and the run state. -/
theorem Inv.boundary {s : State} (h : Inv s) : Inv s.boundary := by
  obtain ⟨hwf, hwait, hbusy⟩ := h
  refine ⟨s.boundary_wf hwf, fun hr => ?_, s.boundary_busy.trans hbusy⟩
  rw [s.boundary_flag]
  exact hwait (s.boundary_fields.1 ▸ hr)

theorem inv_enter {s : State} (e : Exc) (c : Bool) (h : s.mem.wf = true) : Inv (s.enter e c) :=
  ⟨s.enter_wf e c h, nofun, s.enter_busy e c⟩

/-- The MPU woken is no longer waiting, so E is free. -/
theorem Inv.wake {s : State} (h : Inv s) : Inv { s with runState := .running } := ⟨h.1, nofun, h.2.2⟩

theorem runStateAfter_eq_cwaiWaiting {i : Instr} (h : runStateAfter i = .cwaiWaiting) : ∃ m, i = .cwai m := by
  unfold runStateAfter at h
  split at h
  · cases h
  · exact ⟨_, rfl⟩
  · cases h

/-- CWAI leaves E set (44_miscellaneous.md R302). -/
theorem cwai_sets_e {m : Byte} {s t : State} (h : exec (.cwai m) s = .next t) : t.flag .e = true := by
  obtain ⟨hcc, _⟩ := exec_next_of_spec h rfl (execCwai_spec m s)
  rw [State.flag_def, hcc, getFlag_or, show getFlag 0x80 .e = true from rfl, Bool.or_true]

/-- Every instruction is a sequence of accesses with BUSY low after the last, and the only one
that enters the CWAI wait sets E. -/
theorem Inv.exec {i : Instr} {s t : State} (h : Inv s) (hrun : s.runState = .running) (he : exec i s = .next t) : Inv t := by
  obtain ⟨hwf, _, hbusy⟩ := h
  refine ⟨(exec_runs he).wf hwf, fun hwait => ?_, (exec_runs he).busy hbusy⟩
  obtain ⟨m, rfl⟩ := runStateAfter_eq_cwaiWaiting (((exec_frame he).runState hrun).symm.trans hwait)
  exact cwai_sets_e he

/-- The fetch of an instruction ends with BUSY low, whatever it was between its bytes (20_memory.md R64). -/
theorem Inv.fetch {s : State} {i : Instr} {n : Nat} (h : Inv s) (hd : decode (Window.ofList s.fetch.1) = .instr i n) :
    Inv s.fetch.2 := by
  obtain ⟨⟨run, _, _, _, hflags, ⟨_, _, hrun⟩, _⟩, hlen⟩ := s.fetch_spec
  obtain ⟨hwf, hwait, hbusy⟩ := h
  exact ⟨run.wf hwf, fun hr => (hflags .e nofun).trans (hwait (hrun ▸ hr)), (hlen i n hd).2 hbusy⟩

theorem State.fetch_runState (s : State) : s.fetch.2.runState = s.runState := by
  obtain ⟨⟨_, _, _, _, _, ⟨_, _, hrun⟩, _⟩, _⟩ := s.fetch_spec
  exact hrun

/-- Settles O10, over all that a step can be. -/
theorem invKeptByStep : Obligations.InvKeptByStep := by
  intro s t h hstep
  have hb : Inv s.boundary := h.boundary
  rcases step_cases hstep with rfl | rfl | rfl | ⟨e, _, _, rfl⟩ | ⟨e, _, _, rfl⟩ | ⟨hrun, i, n, hd, he⟩
  · exact inv_resetTo _ hb.1
  · exact hb
  · exact hb.wake
  · exact inv_enter e true hb.1
  · exact inv_enter e false hb.1
  · have hrun' : s.boundary.fetch.2.runState = .running :=
      s.boundary.fetch_runState.trans (s.boundary_fields.1.trans hrun)
    exact (hb.fetch hd).exec hrun' he

/-! ## What stands at an address -/

/-- Whatever a step is, it is the boundary and then a sequence of accesses. -/
theorem step_run {s t : State} (h : step s = .next t) : ∃ accs ws, s.boundary.Run t accs ws := by
  rcases step_cases h with rfl | rfl | rfl | ⟨e, _, _, rfl⟩ | ⟨e, _, _, rfl⟩ | ⟨_, i, n, _, he⟩
  · exact ⟨_, _, (s.beginStep.resetTo_run _).congr rfl rfl⟩
  · exact ⟨_, _, .refl rfl⟩
  · exact ⟨_, _, .refl rfl⟩
  · obtain ⟨_, _, run, _⟩ := s.boundary.enter_runs e true
    exact ⟨_, _, run⟩
  · obtain ⟨_, _, run, _⟩ := s.boundary.enter_runs e false
    exact ⟨_, _, run⟩
  · obtain ⟨⟨fetched, _⟩, _⟩ := s.boundary.fetch_spec
    obtain ⟨_, _, run, _⟩ := exec_runs he
    exact ⟨_, _, fetched.trans run⟩

theorem State.boundary_memMap (s : State) : s.boundary.memMap = s.memMap := congrArg Platform.memMap s.boundary_fields.2.1

/-- The boundary leaves an address that no other master writes, or that is not RAM. -/
theorem State.boundary_read_other (s : State) {a : Word}
    (h : a ∉ s.nextInputs.busWrites.map Prod.fst ∨ kindAt s.memMap a ≠ .ram) :
    s.boundary.mem.read a.toNat = s.mem.read a.toNat := by
  rw [State.mem, s.boundary_bus]
  exact Bus.othersWrite_read_other _ _ a (h.imp_left fun ha hm => ha (List.map_subset _ s.boundaryWrites_subset hm))

/-- The device that stands at an address has the side effect of a read of it (20_memory.md R59, R61). -/
theorem State.didRead_held_of_device {s : State} {a : Word} {d : Device} (h : kindAt s.memMap a = .device)
    (hd : s.bus.platform.device = some d) (hu : DevicesUndisturbed s) {k : AccessKind} (busy : Bool) (hk : isWrite k = false) :
    (s.didRead k busy a).bus.held = d.afterRead.eval s.bus.held a.toNat (s.readByte a).toNat := by
  have e := Bus.didRead_held s.bus k busy a
  rw [Bus.shared_held _ hu, Platform.heldAfter_device _ _ _ d h hd, hk] at e
  exact e

theorem State.write_held_of_device {s : State} {a : Word} {d : Device} (h : kindAt s.memMap a = .device)
    (hd : s.bus.platform.device = some d) (hu : DevicesUndisturbed s) {k : AccessKind} (busy : Bool) (v : Byte)
    (hk : isWrite k = true) : (s.write k busy a v).bus.held = d.afterWrite.eval s.bus.held a.toNat v.toNat := by
  have e := Bus.write_held s.bus k busy a v
  rw [Bus.shared_held _ hu, Platform.heldAfter_device _ _ _ d h hd, hk] at e
  exact e

/-- The devices do not see an access elsewhere. -/
theorem State.held_of_not_device {s : State} {a : Word} (h : kindAt s.memMap a ≠ .device) (hu : DevicesUndisturbed s) :
    (∀ k busy, (s.didRead k busy a).bus.held = s.bus.held) ∧ (∀ k busy v, (s.write k busy a v).bus.held = s.bus.held) := by
  refine ⟨fun k busy => (Bus.didRead_held s.bus k busy a).trans ?_,
    fun k busy v => (Bus.write_held s.bus k busy a v).trans ?_⟩
  all_goals rw [Bus.shared_held _ hu, Platform.heldAfter_other _ _ _ h]

/-- Settles O27: a step is the boundary's writes and the MPU's accesses, and neither reach what is not RAM. -/
theorem memoryMapDecidesAccesses : Obligations.MemoryMapDecidesAccesses := by
  refine ⟨fun s t a h hk => ?_, fun _ _ => State.readByte_of_settled, fun s a d hk hd => ?_,
    fun _ _ => State.held_of_not_device⟩
  · obtain ⟨_, _, run⟩ := step_run h
    have hmap : t.memMap = s.boundary.memMap := congrArg Platform.memMap (Bus.Run.platform run)
    have hk' : kindAt s.boundary.memMap a ≠ .ram := by rw [s.boundary_memMap]; exact hk
    exact ⟨hmap.trans s.boundary_memMap, (Bus.Run.read_nonRam run hk').trans (s.boundary_read_other (.inr hk))⟩
  · have hread : s.readByte a = s.bus.cycle.data.getD (s.bus.shared.driven a) := Bus.read_of_device s.bus a hk
    refine ⟨fun v hv => by rw [hread, hv]; rfl, fun hu => ⟨fun hn => ?_,
      fun k busy => State.didRead_held_of_device hk hd hu busy, fun k busy v => State.write_held_of_device hk hd hu busy v⟩⟩
    rw [hread, hn, Option.getD_none, Bus.driven_of_device _ a d (by rw [Bus.shared_platform]; exact hd),
      Bus.shared_held _ hu, BitVec.toNat_ofNat]

/-! ## The other bus masters -/

/-- A byte of RAM read is what memory holds once the other masters have had their turn (20_memory.md R72). -/
theorem State.readByte_of_ram {s : State} {a : Word} (h : kindAt s.memMap a = .ram) :
    s.readByte a = s.bus.shared.mem.read a.toNat := by
  unfold State.readByte Bus.read
  rw [h]

theorem Bus.shared_of_admits {b : Bus} (h : b.platform.admits b.busy = true) : b.shared = b.othersWrite b.cycle.writes :=
  if_pos h

theorem Bus.shared_of_holds {b : Bus} (h : b.platform.admits b.busy = false) : b.shared = b :=
  if_neg (Bool.eq_false_iff.mp h)

theorem Platform.admits_mc6809 {p : Platform} (h : p.version = .mc6809) (busy : Bool) : p.admits busy = p.dmaBreq := by
  simp [Platform.admits, h, Version.hasDmaBreq, Version.hasTsc]

theorem Platform.admits_mc6809e {p : Platform} (h : p.version = .mc6809e) (busy : Bool) :
    p.admits busy = true ↔ p.tsc = true ∧ (p.honoursBusy = true → busy = false) := by
  cases hb : p.honoursBusy <;> simp [Platform.admits, h, Version.hasDmaBreq, Version.hasTsc, hb]

theorem State.releasesBus_of {s : State} (h : s.runState ≠ .cwaiWaiting ∨ s.bus.platform.admits s.bus.busy = true) :
    s.releasesBus = true := by
  unfold State.releasesBus
  cases hr : s.runState with
  | running => rfl
  | syncing => rfl
  | cwaiWaiting => exact h.resolve_left (absurd hr)

/-- In the CWAI wait the MPU holds the bus unless DMA/BREQ or TSC takes it (60_exceptions.md R355, R371). -/
theorem State.releasesBus_of_wait {s : State} (h : s.runState = .cwaiWaiting) :
    s.releasesBus = s.bus.platform.admits s.bus.busy := by
  unfold State.releasesBus
  rw [h]

theorem State.boundary_bus_of_releases {s : State} (h : s.releasesBus = true) :
    s.boundary.bus = ({ s.bus with cycles := s.nextInputs.cycles } : Bus).othersWrite s.nextInputs.busWrites := by
  rw [s.boundary_bus, State.boundaryWrites_of_releases h]

theorem State.boundary_bus_of_holds {s : State} (h : s.releasesBus = false) :
    s.boundary.bus = { s.bus with cycles := s.nextInputs.cycles } := by
  rw [s.boundary_bus, State.boundaryWrites_of_holds h]
  rfl

/-- After an access with BUSY high that is honoured no other master writes (20_memory.md R64). -/
theorem State.shared_after_busy {s : State} (hv : s.bus.platform.version = .mc6809e)
    (hh : s.bus.platform.honoursBusy = true) (k : AccessKind) (a : Word) :
    (s.didRead k true a).bus.shared = (s.didRead k true a).bus := by
  refine Bus.shared_of_holds (Bool.eq_false_iff.mpr fun h => ?_)
  have hp : (s.didRead k true a).bus.platform = s.bus.platform := Bus.didRead_platform s.bus k true a
  rw [hp, Platform.admits_mc6809e hv] at h
  exact Bool.noConfusion (h.2 hh)

/-- Settles O21, by the laws of the boundary's writes and of the turn that other masters have before an access. -/
theorem busMastersWriteBetweenAccesses : Obligations.BusMastersWriteBetweenAccesses := by
  intro s
  refine ⟨fun r _ => s.boundary_reg r, fun k _ => s.boundary_flag k, s.boundary_fields.2.1,
    fun a => s.boundary_read_other, fun h => ?_, fun hr hb => ?_, Platform.admits_mc6809, Platform.admits_mc6809e,
    fun a hk h => ?_, fun hwf hb before a v hw hk => ?_, fun hv hh k a w hk => ?_⟩
  · have hbus := State.boundary_bus_of_releases (State.releasesBus_of h)
    refine ⟨fun hwf before a v hw hk => ?_, ?_⟩
    · rw [State.mem, hbus, hw]
      exact Bus.othersWrite_read_last _ before a v hwf hk
    · rw [hbus, Bus.othersWrite_held]
  · rw [State.mem, State.boundary_bus_of_holds ((State.releasesBus_of_wait hr).trans hb)]
    exact ⟨rfl, rfl⟩
  · rw [State.readByte_of_ram hk]
    cases hb : s.bus.platform.admits s.bus.busy with
    | false => rw [Bus.shared_of_holds hb]
    | true =>
      rw [Bus.shared_of_admits hb]
      exact Bus.othersWrite_read_other _ _ a (.inl (h.resolve_left (by simp [hb])))
  · rw [State.readByte_of_ram hk, Bus.shared_of_admits hb, hw]
    exact Bus.othersWrite_read_last _ before a v hwf hk
  · have hk' : kindAt (s.didRead k true a).memMap w = .ram := by
      rw [State.memMap, show (s.didRead k true a).bus.platform = _ from Bus.didRead_platform s.bus k true a]; exact hk
    rw [State.readByte_of_ram hk, State.readByte_of_ram hk', State.shared_after_busy hv hh]
    rfl

/-! ## Taking an interrupt -/

theorem State.boundary_action_enter {s : State} {e : Exc} (hw : s.runState ≠ .cwaiWaiting)
    (hr : s.boundary.request s.nextInputs = some e) : s.boundary.action s.nextInputs = .enter e true := by
  unfold State.action
  rw [s.boundary_fields.1, hr]
  cases h : s.runState with
  | running => rfl
  | syncing => rfl
  | cwaiWaiting => exact absurd h hw

/-- The state in which an interrupt is taken at the boundary of `s`, its frame stacked: what the entries of all interrupts
have in common (60_exceptions.md R340 to R345). -/
structure EntersFrom (s t : State) (e : Exc) : Prop where
  sp : t.sp = s.frameTop e
  vector : LoadsVector s.boundary t e.vector (accesses .push (s.frameTop e) (s.frameBytes e))
  stores : Stores s.boundary t (s.frameTop e) (s.frameBytes e)
  flags : ∀ q, t.flag q =
    if q = .e then (e != .firq)
    else if q = .i ∧ (e = .nmi ∨ e = .firq ∨ e = .irq ∨ e = .swi) then true
    else if q = .f ∧ (e = .nmi ∨ e = .firq ∨ e = .swi) then true else s.flag q
  regs : KeepsRegs s t [.s, .pc]
  pending : t.nmiPending = ((s.nmiPending || s.nextInputs.nmiEdge) && e != .nmi)
  armed : t.nmiArmed = s.nmiArmed
  runState : t.runState = .running
  platform : t.bus.platform = s.bus.platform
  inputs : t.inputs = s.inputs.tail
  tick : t.tick = s.tick + 1

/-- The entry is made from the boundary, whose registers and flags are those of the state before. -/
theorem State.boundary_enters (s : State) (e : Exc) : EntersFrom s (s.boundary.enter e true) e := by
  obtain ⟨hsp, hstores, hvector, hflags, hregs⟩ := s.boundary.enter_spec e
  obtain ⟨_, hplatform, hinputs, htick, harmed, hpending, _⟩ := s.boundary_fields
  exact {
    sp := hsp
    vector := hvector
    stores := hstores
    flags := fun q => by rw [hflags, s.boundary_flag]
    regs := fun r hr => (hregs r hr).trans (s.boundary_reg r)
    pending := by rw [State.enter_nmiPending, hpending]
    armed := (State.enter_nmiArmed _ _ _).trans harmed
    runState := State.enter_runState _ _ _
    platform := (State.enter_platform _ _ _).trans hplatform
    inputs := (State.enter_inputs _ _ _).trans hinputs
    tick := (State.enter_tick _ _ _).trans htick }

/-- Outside the CWAI wait an interrupt requested is taken with its stacking (60_exceptions.md R331, R337). -/
theorem step_enters {s : State} {e : Exc} (hp : s.proceeds) (hw : s.runState ≠ .cwaiWaiting)
    (hr : s.boundary.request s.nextInputs = some e) : ∃ t, step s = .next t ∧ EntersFrom s t e := by
  refine ⟨_, ?_, s.boundary_enters e⟩
  rw [step_of_proceeds hp, State.boundary_action_enter hw hr]
  rfl

/-- Settles O14: an NMI that is ready is requested whatever else is. -/
theorem nmiEntry : Obligations.NmiEntry := by
  intro s hp hw hnmi
  have hr : s.boundary.request s.nextInputs = some .nmi := by rw [s.boundary_request, hnmi]; rfl
  obtain ⟨t, hstep, h⟩ := step_enters hp hw hr
  refine ⟨t, hstep, h.sp, h.vector, h.stores, h.flags .e, h.flags .i, h.flags .f, h.regs, fun k hk => ?_, ?_, ?_, h.runState,
    h.platform, h.inputs, h.tick⟩
  · simp only [List.mem_cons, List.not_mem_nil, or_false, not_or] at hk
    simp [h.flags, hk]
  · rw [h.pending, bne_self_eq_false, Bool.and_false]
  · rw [h.armed]
    exact (Bool.and_eq_true_iff.mp hnmi).2

/-- Settles O15: a FIRQ that is ready is requested if no NMI is. -/
theorem firqEntry : Obligations.FirqEntry := by
  intro s hp hw hnmi hfirq
  have hr : s.boundary.request s.nextInputs = some .firq := by rw [s.boundary_request, hnmi, hfirq]; rfl
  obtain ⟨t, hstep, h⟩ := step_enters hp hw hr
  refine ⟨t, hstep, h.sp, h.vector, h.stores, h.flags .e, h.flags .i, h.flags .f, h.regs, fun k hk => ?_,
    h.pending.trans (Bool.and_true _), h.armed, h.runState, h.platform, h.inputs, h.tick⟩
  simp only [List.mem_cons, List.not_mem_nil, or_false, not_or] at hk
  simp [h.flags, hk]

/-- Settles O16: an IRQ that is ready is requested if neither NMI nor FIRQ is. -/
theorem irqEntry : Obligations.IrqEntry := by
  intro s hp hw hnmi hfirq hirq
  have hr : s.boundary.request s.nextInputs = some .irq := by rw [s.boundary_request, hnmi, hfirq, hirq]; rfl
  obtain ⟨t, hstep, h⟩ := step_enters hp hw hr
  refine ⟨t, hstep, h.sp, h.vector, h.stores, h.flags .e, h.flags .i, h.regs, fun k hk => ?_,
    h.pending.trans (Bool.and_true _), h.armed, h.runState, h.platform, h.inputs, h.tick⟩
  simp only [List.mem_cons, List.not_mem_nil, or_false, not_or] at hk
  simp [h.flags, hk]

/-- A software interrupt is the entry of its exception: E and its masks set, the frame with E set, no NMI touched
(44_miscellaneous.md R314 to R316). -/
theorem State.enter_software (s : State) {e : Exc} {set : List Flag} (hfirq : e ≠ .firq) (hnmi : e ≠ .nmi)
    (hset : ∀ q, (s.enter e true).flag q = (decide (q ∈ set) || s.flag q)) :
    (s.enter e true).sp = s.sp - 12 ∧
    LoadsVector s (s.enter e true) e.vector (accesses .push (s.sp - 12) (s.entireFrame (s.cc ||| 0x80))) ∧
    Stores s (s.enter e true) (s.sp - 12) (s.entireFrame (s.cc ||| 0x80)) ∧
    (∀ k, k ∈ set → (s.enter e true).flag k = true) ∧ KeepsFlags s (s.enter e true) set ∧
    KeepsRegs s (s.enter e true) [.s, .pc] ∧ (s.enter e true).nmiArmed = s.nmiArmed ∧
    (s.enter e true).nmiPending = s.nmiPending ∧ (s.enter e true).runState = .running ∧ KeepsPlatform s (s.enter e true) := by
  obtain ⟨hsp, hstores, hvector, _, hregs⟩ := s.enter_spec e
  have htop : s.frameTop e = s.sp - 12 := if_neg hfirq
  have hbytes : s.frameBytes e = s.entireFrame (s.cc ||| 0x80) := if_neg hfirq
  rw [htop] at hsp hstores hvector
  rw [hbytes] at hstores hvector
  refine ⟨hsp, hvector, hstores, fun k hk => ?_, fun k hk => ?_, hregs, by simp, by simp [hnmi], rfl, by simp [KeepsPlatform]⟩
  · rw [hset, decide_eq_true hk, Bool.true_or]
  · rw [hset, decide_eq_false hk, Bool.false_or]

/-- SWI masks I and F beside setting E. -/
theorem State.enter_swi_flag (s : State) (q : Flag) :
    (s.enter .swi true).flag q = (decide (q ∈ [Flag.e, .i, .f]) || s.flag q) := by
  obtain ⟨_, _, _, hflags, _⟩ := s.enter_spec .swi
  rw [hflags]
  cases q <;> simp

/-- SWI2 and SWI3 mask nothing. -/
theorem State.enter_unmasked_flag (s : State) {e : Exc} (he : e = .swi2 ∨ e = .swi3) (q : Flag) :
    (s.enter e true).flag q = (decide (q ∈ [Flag.e]) || s.flag q) := by
  obtain ⟨_, _, _, hflags, _⟩ := s.enter_spec e
  rw [hflags]
  rcases he with rfl | rfl <;> cases q <;> simp

/-- Settles O57. -/
theorem softwareInterruptEffect : Obligations.SoftwareInterruptEffect := fun s =>
  ⟨⟨rfl, _, rfl, s.enter_software nofun nofun s.enter_swi_flag⟩,
    ⟨rfl, _, rfl, s.enter_software nofun nofun (s.enter_unmasked_flag (.inl rfl))⟩,
    ⟨rfl, _, rfl, s.enter_software nofun nofun (s.enter_unmasked_flag (.inr rfl))⟩⟩

/-! ## Read-modify-write instructions and TST -/

/-- The operation of a read-modify-write instruction on its operand. -/
def Rmw.modify (alu : Byte → Byte → Bool → Out8) : Rmw → State → Result
  | .acc r => accModify alu r
  | .mem o => memModify alu o

/-- The operation that only tests its operand. -/
def Rmw.probe (alu : Byte → Byte → Bool → Out8) : Rmw → State → Result
  | .acc r => accProbe alu r
  | .mem o => memProbe alu o

/-- `form` gives the instructions of row `n` of the opcode map, and they mean `op`. -/
structure RmwRow (form : Rmw → Instr) (n : Byte) (op : Rmw → State → Result) : Prop where
  encodes : ∀ o, encode (form o) = rmwBytes n o
  means : ∀ o s, exec (form o) s = op o s

/-- The five modes of a row; `rfl` holds each of them to the opcode map and to the operation. -/
theorem RmwRow.of_modes {a b : Instr} {dir : Byte → Instr} {idx : Idx → Instr} {ext : Word → Instr} {n : Byte}
    {op : Rmw → State → Result} (ha : encode a = [0x40 + n] ∧ exec a = op (.acc .a) := by exact ⟨rfl, rfl⟩)
    (hb : encode b = [0x50 + n] ∧ exec b = op (.acc .b) := by exact ⟨rfl, rfl⟩)
    (hdir : ∀ d, encode (dir d) = [n, d] ∧ exec (dir d) = op (.mem (.dir d)) := by exact fun _ => ⟨rfl, rfl⟩)
    (hidx : ∀ ix, encode (idx ix) = (0x60 + n) :: encodeIdx ix ∧ exec (idx ix) = op (.mem (.idx ix)) :=
      by exact fun _ => ⟨rfl, rfl⟩)
    (hext : ∀ w, encode (ext w) = [0x70 + n, hiByte w, loByte w] ∧ exec (ext w) = op (.mem (.ext w)) :=
      by exact fun _ => ⟨rfl, rfl⟩) :
    RmwRow (byRmw a b dir idx ext) n op := by
  have row (o : Rmw) : encode (byRmw a b dir idx ext o) = rmwBytes n o ∧ exec (byRmw a b dir idx ext o) = op o :=
    match o with
    | .acc .a => ha
    | .acc .b => hb
    | .mem (.dir d) => hdir d
    | .mem (.idx ix) => hidx ix
    | .mem (.ext w) => hext w
  exact ⟨fun o => (row o).1, fun o s => congrFun (row o).2 s⟩

theorem negForm_row : RmwRow negForm 0x0 (Rmw.modify aluNeg) := .of_modes

theorem comForm_row : RmwRow comForm 0x3 (Rmw.modify aluCom) := .of_modes

theorem lsrForm_row : RmwRow lsrForm 0x4 (Rmw.modify aluLsr) := .of_modes

theorem rorForm_row : RmwRow rorForm 0x6 (Rmw.modify aluRor) := .of_modes

theorem asrForm_row : RmwRow asrForm 0x7 (Rmw.modify aluAsr) := .of_modes

theorem aslForm_row : RmwRow aslForm 0x8 (Rmw.modify aluAsl) := .of_modes

theorem rolForm_row : RmwRow rolForm 0x9 (Rmw.modify aluRol) := .of_modes

theorem decForm_row : RmwRow decForm 0xA (Rmw.modify aluDec) := .of_modes

theorem incForm_row : RmwRow incForm 0xC (Rmw.modify aluInc) := .of_modes

theorem clrForm_row : RmwRow clrForm 0xF (Rmw.modify aluClr) := .of_modes

theorem tstForm_row : RmwRow tstForm 0xD (Rmw.probe aluTst) := .of_modes

/-- A computation of the flags changes none outside `fs`. -/
def WritesFlags (fs : List Flag) (before after : Byte) : Prop := ∀ k, k ∉ fs → getFlag after k = getFlag before k

theorem WritesFlags.keepsFlags_afterEA {fs : List Flag} {s t : State} {o : Mem} (h : WritesFlags fs s.cc t.cc) :
    KeepsFlags (s.afterEA o) t fs := fun k hk =>
  (h k hk).trans (State.flag_congr (s.afterEA_cc o) k).symm

/-- What the operation computes is in the operand and in CC, and nothing else changes. -/
theorem Rmw.modify_spec (alu : Byte → Byte → Bool → Out8) (o : Rmw) (s : State) :
    ∃ t, o.modify alu s = .next t ∧ t.cc = (alu (o.value s) s.cc s.undefinedH).cc ∧
      ∀ fs, WritesFlags fs s.cc t.cc → o.Written s t fs (alu (o.value s) s.cc s.undefinedH).r := by
  cases o with
  | acc r =>
    obtain ⟨t, ht, hr, hcc, hregs, hcontrol, hplatform, hbus⟩ := accModify_spec alu r s
    exact ⟨t, ht, hcc, fun fs hfs =>
      ⟨hr, ⟨hregs, hfs, hcontrol, hplatform⟩, .refl_of_bus hbus, .of_bus hbus⟩⟩
  | mem o =>
    obtain ⟨t, ht, hcc, hregs, hcontrol, hplatform, run⟩ := memModify_spec alu o s
    exact ⟨t, ht, hcc, fun fs hfs =>
      ⟨⟨hregs, hfs.keepsFlags_afterEA, hcontrol, hplatform⟩, run.stores_single, run.makes⟩⟩

theorem Rmw.probe_spec (alu : Byte → Byte → Bool → Out8) (o : Rmw) (s : State) :
    ∃ t, o.probe alu s = .next t ∧ t.cc = (alu (o.value s) s.cc s.undefinedH).cc ∧
      ∀ fs, WritesFlags fs s.cc t.cc → o.Probed s t fs := by
  cases o with
  | acc r =>
    obtain ⟨t, ht, hcc, hregs, hcontrol, hplatform, hbus⟩ := accProbe_spec alu r s
    exact ⟨t, ht, hcc, fun fs hfs => ⟨⟨hregs, hfs, hcontrol, hplatform⟩, .refl_of_bus hbus, .of_bus hbus⟩⟩
  | mem o =>
    obtain ⟨t, ht, hcc, hregs, hcontrol, hplatform, hmem, run⟩ := memProbe_spec alu o s
    exact ⟨t, ht, hcc, fun fs hfs => ⟨⟨hregs, hfs.keepsFlags_afterEA, hcontrol, hplatform⟩, hmem, run.makes⟩⟩

/-- The flags of a computation of one operand: N and Z are those of the result, and none outside `fs` changes. -/
structure FlagLaw (alu : Byte → Byte → Bool → Out8) (fs : List Flag) : Prop where
  n : ∀ m cc hu, getFlag (alu m cc hu).cc .n = (alu m cc hu).r.msb
  z : ∀ m cc hu, getFlag (alu m cc hu).cc .z = ((alu m cc hu).r == 0)
  keeps : ∀ m cc hu, WritesFlags fs cc (alu m cc hu).cc

theorem State.flag_of_cc {t : State} {c : Byte} (h : t.cc = c) (k : Flag) : t.flag k = getFlag c k :=
  congrArg (getFlag · k) h

theorem FlagLaw.nz8 {alu : Byte → Byte → Bool → Out8} {fs : List Flag} (law : FlagLaw alu fs) {t : State} {m cc : Byte}
    {hu : Bool} (h : t.cc = (alu m cc hu).cc) : NZ8 t (alu m cc hu).r :=
  ⟨(State.flag_of_cc h .n).trans (law.n m cc hu),
    (State.flag_of_cc h .z).trans ((law.z m cc hu).trans (beq_eq_decide _ _))⟩

/-- A read-modify-write instruction: its encoding, and its effect in terms of its computation. -/
theorem RmwRow.effect {form : Rmw → Instr} {n : Byte} {alu : Byte → Byte → Bool → Out8} {fs : List Flag}
    (row : RmwRow form n (Rmw.modify alu)) (law : FlagLaw alu fs) (o : Rmw) (s : State) :
    encode (form o) = rmwBytes n o ∧
      ∃ t, exec (form o) s = .next t ∧ (∀ k, t.flag k = getFlag (alu (o.value s) s.cc s.undefinedH).cc k) ∧
        NZ8 t (alu (o.value s) s.cc s.undefinedH).r ∧ o.Written s t fs (alu (o.value s) s.cc s.undefinedH).r := by
  obtain ⟨t, ht, hcc, hw⟩ := Rmw.modify_spec alu o s
  exact ⟨row.encodes o, t, (row.means o s).trans ht, State.flag_of_cc hcc, law.nz8 hcc, hw fs (hcc ▸ law.keeps _ _ _)⟩

/-- The same of an instruction that only tests its operand. -/
theorem RmwRow.probe_effect {form : Rmw → Instr} {n : Byte} {alu : Byte → Byte → Bool → Out8} {fs : List Flag}
    (row : RmwRow form n (Rmw.probe alu)) (law : FlagLaw alu fs) (o : Rmw) (s : State) :
    encode (form o) = rmwBytes n o ∧
      ∃ t, exec (form o) s = .next t ∧ (∀ k, t.flag k = getFlag (alu (o.value s) s.cc s.undefinedH).cc k) ∧
        NZ8 t (alu (o.value s) s.cc s.undefinedH).r ∧ o.Probed s t fs := by
  obtain ⟨t, ht, hcc, hp⟩ := Rmw.probe_spec alu o s
  exact ⟨row.encodes o, t, (row.means o s).trans ht, State.flag_of_cc hcc, law.nz8 hcc, hp fs (hcc ▸ law.keeps _ _ _)⟩

/-! ### The results, as numbers -/

theorem exact_negation (m : Byte) : ((0 : Byte).toNat : Int) - m.toNat - false.toNat = -m.toNat := by simp

/-- NEG subtracts from zero (40_8bit_accumulator_memory.md R170). -/
theorem sub8_zero_toNat (m : Byte) : (sub8 0 m false).r.toNat = (256 - m.toNat) % 256 := by
  have := m.isLt
  simp only [sub8, exact_negation, BitVec.toNat_ofInt, Nat.reducePow, Nat.cast_ofNat]
  omega

theorem sub8_zero_c (m : Byte) : (sub8 0 m false).c = decide (m ≠ 0) := by
  have h : m = 0 ↔ m.toNat = 0 := BitVec.toNat_inj.symm
  simp only [sub8, exact_negation, decide_eq_decide, ne_eq, h]
  omega

/-- Only $80 is its own complement with the sign set. -/
theorem sub8_zero_v (m : Byte) : (sub8 0 m false).v = decide (m = 0x80) := by
  have hr := sub8_zero_toNat m
  have hm := m.isLt
  have hv : (sub8 0 m false).v = (m.msb && (sub8 0 m false).r.msb) := by simp [sub8]
  have h : m = 0x80 ↔ m.toNat = 128 := BitVec.toNat_inj.symm
  rw [hv, BitVec.msb_eq_decide, BitVec.msb_eq_decide, hr, ← Bool.decide_and, decide_eq_decide, h]
  omega

theorem asl8_toNat (m : Byte) : (asl8 m).r.toNat = 2 * m.toNat % 256 := by
  simp [asl8, Nat.shiftLeft_eq, Nat.mul_comm]

theorem getLsbD_seven (m : Byte) : m.getLsbD 7 = decide (128 ≤ m.toNat) :=
  m.msb_eq_getLsbD_last.symm.trans m.msb_eq_decide

theorem getLsbD_zero (m : Byte) : m.getLsbD 0 = decide (m.toNat % 2 = 1) := by
  simp [BitVec.getLsbD, Nat.testBit_zero]

theorem topBit_append_toNat (c : Bool) (m : Byte) :
    (BitVec.ofBool c ++ m.extractLsb' 1 7 : Byte).toNat = 128 * c.toNat + m.toNat / 2 := by
  have := m.isLt
  rw [BitVec.toNat_append, ← Nat.shiftLeft_add_eq_or_of_lt (BitVec.isLt _)]
  simp only [BitVec.toNat_ofBool, Nat.shiftLeft_eq, BitVec.extractLsb'_toNat, Nat.shiftRight_eq_div_pow, Nat.reducePow]
  omega

theorem asr8_toInt (m : Byte) : (asr8 m).toInt = m.toInt / 2 := by
  have := m.isLt
  have e : (asr8 m).toNat = 128 * (m.getLsbD 7).toNat + m.toNat / 2 := topBit_append_toNat _ m
  rw [getLsbD_seven] at e
  rw [BitVec.toInt_eq_toNat_cond, BitVec.toInt_eq_toNat_cond, e]
  by_cases h : 128 ≤ m.toNat <;> simp [h] <;> split <;> omega

theorem lsr8_toNat (m : Byte) : (lsr8 m).toNat = m.toNat / 2 :=
  (topBit_append_toNat false m).trans (Nat.zero_add _)

theorem ror8_toNat (m : Byte) (c : Bool) : 2 * (ror8 m c).toNat + (m.getLsbD 0).toNat = 256 * c.toNat + m.toNat := by
  have e : (ror8 m c).toNat = 128 * c.toNat + m.toNat / 2 := topBit_append_toNat c m
  rw [e, getLsbD_zero]
  by_cases h : m.toNat % 2 = 1 <;> simp [h] <;> omega

theorem rol8_toNat (m : Byte) (c : Bool) : (rol8 m c).r.toNat + 256 * (rol8 m c).c.toNat = 2 * m.toNat + c.toNat := by
  have := m.isLt
  have hc : c.toNat < 2 := Bool.toNat_lt c
  have e : (rol8 m c).r.toNat = 2 * (m.toNat % 128) + c.toNat := by
    simp only [rol8, BitVec.toNat_append, BitVec.extractLsb'_toNat, BitVec.toNat_ofBool]
    rw [← Nat.shiftLeft_add_eq_or_of_lt (by simpa using hc)]
    simp only [Nat.shiftRight_zero, Nat.shiftLeft_eq, Nat.reducePow]
    omega
  rw [e, show (rol8 m c).c = m.getLsbD 7 from rfl, getLsbD_seven]
  by_cases h : 128 ≤ m.toNat <;> simp [h] <;> omega

theorem inc_overflow (m : Byte) : (m == 0x7F#8) = decide (127 < m.toInt + 1) := by
  have := m.isLt
  have h : m = 0x7F#8 ↔ m.toNat = 127 := BitVec.toNat_inj.symm
  rw [BitVec.toInt_eq_toNat_cond, beq_eq_decide, decide_eq_decide, h]
  split <;> omega

theorem dec_overflow (m : Byte) : (m == 0x80#8) = decide (m.toInt - 1 < -128) := by
  have := m.isLt
  have h : m = 0x80#8 ↔ m.toNat = 128 := BitVec.toNat_inj.symm
  rw [BitVec.toInt_eq_toNat_cond, beq_eq_decide, decide_eq_decide, h]
  split <;> omega

/-! ### The flags written -/

theorem aluNeg_flagLaw : FlagLaw aluNeg [.h, .n, .z, .v, .c] where
  n := by simp [aluNeg]
  z := by simp [aluNeg]
  keeps _ _ _ k hk := by cases k <;> simp_all [aluNeg]

theorem aluCom_flagLaw : FlagLaw aluCom [.n, .z, .v, .c] where
  n := by simp [aluCom]
  z := by simp [aluCom]
  keeps _ _ _ k hk := by cases k <;> simp_all [aluCom]

theorem aluAsl_flagLaw : FlagLaw aluAsl [.h, .n, .z, .v, .c] where
  n := by simp [aluAsl]
  z := by simp [aluAsl]
  keeps _ _ _ k hk := by cases k <;> simp_all [aluAsl]

theorem aluAsr_flagLaw : FlagLaw aluAsr [.h, .n, .z, .c] where
  n := by simp [aluAsr]
  z := by simp [aluAsr]
  keeps _ _ _ k hk := by cases k <;> simp_all [aluAsr]

theorem lsr8_msb (m : Byte) : (lsr8 m).msb = false := by
  have := m.isLt
  rw [BitVec.msb_eq_decide, lsr8_toNat, decide_eq_false_iff_not]
  omega

theorem aluLsr_flagLaw : FlagLaw aluLsr [.n, .z, .c] where
  n := by simp [aluLsr, lsr8_msb]
  z := by simp [aluLsr]
  keeps _ _ _ k hk := by cases k <;> simp_all [aluLsr]

theorem aluRol_flagLaw : FlagLaw aluRol [.n, .z, .v, .c] where
  n := by simp [aluRol]
  z := by simp [aluRol]
  keeps _ _ _ k hk := by cases k <;> simp_all [aluRol]

theorem aluRor_flagLaw : FlagLaw aluRor [.n, .z, .c] where
  n := by simp [aluRor]
  z := by simp [aluRor]
  keeps _ _ _ k hk := by cases k <;> simp_all [aluRor]

theorem aluInc_flagLaw : FlagLaw aluInc [.n, .z, .v] where
  n := by simp [aluInc]
  z := by simp [aluInc]
  keeps _ _ _ k hk := by cases k <;> simp_all [aluInc]

theorem aluDec_flagLaw : FlagLaw aluDec [.n, .z, .v] where
  n := by simp [aluDec]
  z := by simp [aluDec]
  keeps _ _ _ k hk := by cases k <;> simp_all [aluDec]

theorem aluClr_flagLaw : FlagLaw aluClr [.n, .z, .v, .c] where
  n := by simp [aluClr]
  z := by simp [aluClr]
  keeps _ _ _ k hk := by cases k <;> simp_all [aluClr]

theorem aluTst_flagLaw : FlagLaw aluTst [.n, .z, .v] where
  n := by simp [aluTst]
  z := by simp [aluTst]
  keeps _ _ _ k hk := by cases k <;> simp_all [aluTst]

/-! ### The instructions -/

/-- Settles O37: zero minus the operand; its complement. -/
theorem negAndComEffect : Obligations.NegAndComEffect := by
  intro o s m
  refine ⟨?_, ?_⟩
  · obtain ⟨henc, t, ht, hflag, hnz, hw⟩ := negForm_row.effect aluNeg_flagLaw o s
    refine ⟨henc, t, _, ht, sub8_zero_toNat m, hnz, ?_, ?_, hw⟩
    · rw [hflag, ← sub8_zero_v]; simp [aluNeg, m]
    · rw [hflag, ← sub8_zero_c]; simp [aluNeg, m]
  · obtain ⟨henc, t, ht, hflag, hnz, hw⟩ := comForm_row.effect aluCom_flagLaw o s
    exact ⟨henc, t, _, ht, BitVec.toNat_not, hnz, by simp [hflag, aluCom], by simp [hflag, aluCom], hw⟩

/-- Settles O38: one bit to the left; to the right with the sign; to the right. -/
theorem shiftEffect : Obligations.ShiftEffect := by
  intro o s m
  refine ⟨?_, ?_, ?_⟩
  · obtain ⟨henc, t, ht, hflag, hnz, hw⟩ := aslForm_row.effect aluAsl_flagLaw o s
    refine ⟨henc, t, _, ht, asl8_toNat m, hnz, by simp [hflag, aluAsl, asl8, m], ?_, hw⟩
    rw [hflag, ← getLsbD_seven]; simp [aluAsl, asl8, m]
  · obtain ⟨henc, t, ht, hflag, hnz, hw⟩ := asrForm_row.effect aluAsr_flagLaw o s
    refine ⟨henc, t, _, ht, asr8_toInt m, hnz, ?_, hw⟩
    rw [hflag, ← getLsbD_zero]; simp [aluAsr, m]
  · obtain ⟨henc, t, ht, hflag, hnz, hw⟩ := lsrForm_row.effect aluLsr_flagLaw o s
    refine ⟨henc, t, _, ht, lsr8_toNat m, hnz, by simp [hflag, aluLsr], ?_, hw⟩
    rw [hflag, ← getLsbD_zero]; simp [aluLsr, m]

theorem ite_eq_mul_toNat (b : Bool) (n : Nat) : (if b = true then n else 0) = n * b.toNat := by cases b <;> simp

/-- Settles O39: the nine bits of the operand and C, before and after. -/
theorem rotateEffect : Obligations.RotateEffect := by
  intro o s m c
  have hc : c = (s.flag .c).toNat := (ite_eq_mul_toNat _ 1).trans (Nat.one_mul _)
  refine ⟨?_, ?_⟩
  · obtain ⟨henc, t, ht, hflag, hnz, hw⟩ := rolForm_row.effect aluRol_flagLaw o s
    have hcarry : t.flag .c = (rol8 m (s.flag .c)).c := by simp [hflag, aluRol, m, State.flag_def]
    refine ⟨henc, t, _, ht, ?_, hnz, by simp [hflag, aluRol, rol8, m], hw⟩
    rw [hcarry, ite_eq_mul_toNat, hc]
    exact rol8_toNat m _
  · obtain ⟨henc, t, ht, hflag, hnz, hw⟩ := rorForm_row.effect aluRor_flagLaw o s
    have hcarry : t.flag .c = m.getLsbD 0 := by simp [hflag, aluRor, m]
    refine ⟨henc, t, _, ht, ?_, hnz, hw⟩
    rw [hcarry, ite_eq_mul_toNat, Nat.one_mul, hc]
    exact ror8_toNat m _

/-- Settles O40. -/
theorem incAndDecEffect : Obligations.IncAndDecEffect := by
  intro o s m
  refine ⟨?_, ?_⟩
  · obtain ⟨henc, t, ht, hflag, hnz, hw⟩ := incForm_row.effect aluInc_flagLaw o s
    refine ⟨henc, t, _, ht, BitVec.toNat_add m 1, hnz, ?_, hw⟩
    rw [hflag, ← inc_overflow]; simp [aluInc, m]
  · obtain ⟨henc, t, ht, hflag, hnz, hw⟩ := decForm_row.effect aluDec_flagLaw o s
    refine ⟨henc, t, _, ht, (BitVec.toNat_sub m 1).trans (congrArg (· % 256) (Nat.add_comm 255 _)), hnz, ?_, hw⟩
    rw [hflag, ← dec_overflow]; simp [aluDec, m]

/-- Settles O41. -/
theorem clrAndTstEffect : Obligations.ClrAndTstEffect := by
  intro o s
  refine ⟨?_, ?_⟩
  · obtain ⟨henc, t, ht, hflag, _, hw⟩ := clrForm_row.effect aluClr_flagLaw o s
    exact ⟨henc, t, ht, by simp [hflag, aluClr], by simp [hflag, aluClr], by simp [hflag, aluClr],
      by simp [hflag, aluClr], hw⟩
  · obtain ⟨henc, t, ht, hflag, hnz, hp⟩ := tstForm_row.probe_effect aluTst_flagLaw o s
    exact ⟨henc, t, ht, hnz, by simp [hflag, aluTst], hp⟩

/-! ## Words -/

theorem State.didReadWord_keeps (s : State) (k : AccessKind) (a : Word) : Keeps s (s.didReadWord k a) [] [] :=
  ⟨.of_fields rfl rfl rfl rfl rfl rfl rfl rfl [], .of_cc rfl [], by simp [KeepsControl], by simp [KeepsPlatform]⟩

/-- Bytes read where bytes were stored, in RAM that no other master writes, are the bytes stored (20_memory.md R59). -/
theorem Reads.eq_stored {s t : State} {accs : List Access} {ws : List (Word × Byte)} {a : Word} {bs cs : List Byte}
    (h : Reads t a bs) (run : s.Run t accs ws) (hs : Stores s t a cs) (hwf : s.mem.wf = true) (hl : bs.length = cs.length)
    (hram : ∀ i, i < cs.length → kindAt s.memMap (above a i) = .ram ∧ Undisturbed s (above a i)) : bs = cs := by
  refine List.ext_getElem hl fun i hi hi' => ?_
  obtain ⟨hk, hu⟩ := hram i hi'
  have hread := h i bs[i] (List.getElem?_eq_getElem hi) (run.settled ⟨.inl hk, hu⟩)
  exact hread.trans (hs.2.2 hwf i cs[i] (List.getElem?_eq_getElem hi') hk hu)

/-- A word written to RAM that no other master writes is read back byte by byte. -/
theorem State.reads_writeWord {s : State} {k : AccessKind} {a v : Word} (hwf : s.mem.wf = true)
    (h0 : kindAt s.memMap a = .ram ∧ Undisturbed s a) (h1 : kindAt s.memMap (a + 1) = .ram ∧ Undisturbed s (a + 1)) :
    (s.writeWord k a v).readByte a = hiByte v ∧
      ((s.writeWord k a v).didRead k true a).readByte (a + 1) = loByte v ∧
      (s.writeWord k a v).readByte (a + 1) = loByte v := by
  have run := s.writeWord_run k a v
  have hstores : Stores s (s.writeWord k a v) a (wordBytes v) := run.stores_word
  have hram : ∀ i, i < (wordBytes v).length → kindAt s.memMap (above a i) = .ram ∧ Undisturbed s (above a i) := by
    intro i hi
    match i with
    | 0 => rwa [above_zero]
    | 1 => exact h1
    | _ + 2 => simp [wordBytes] at hi
  have heq := (Reads.word (s.writeWord k a v) k true a).eq_stored run hstores hwf rfl hram
  obtain ⟨hhi, hlo⟩ := List.cons.inj heq
  have hsettled : Settled (s.writeWord k a v) (a + 1) := run.settled ⟨.inl h1.1, h1.2⟩
  exact ⟨hhi, (List.cons.inj hlo).1,
    (State.readByte_of_settled hsettled).trans (hstores.2.2 hwf 1 (loByte v) rfl h1.1 h1.2)⟩

/-- Settles O28. -/
theorem wordsAreBigEndian : Obligations.WordsAreBigEndian := by
  refine ⟨fun s k a v h hk0 hk1 hu0 hu1 => ?_, fun s => ⟨fun m => ⟨rfl, rfl⟩, fun o => ?_⟩⟩
  · obtain ⟨hhi, hlo, hlo'⟩ := State.reads_writeWord (k := k) (v := v) h.1 ⟨hk0, hu0⟩ ⟨hk1, hu1⟩
    refine ⟨?_, ?_, ?_, (s.writeWord_run k a v).stores_word, (s.writeWord_run k a v).makes⟩
    · unfold State.readWord
      rw [hhi, hlo, word_hi_lo]
    · rw [hhi, hiByte_toNat]
    · rw [hlo', loByte_toNat]
  · exact ⟨_, _, rfl, Reads.word (s.afterEA o) .load true (s.ea o), (s.after16_mem_run o).makes,
      (s.afterEA o).didReadWord_keeps .load (s.ea o), .after16 s (.mem o)⟩

/-! ## The 16-bit stores -/

theorem encode_st16Form (r : Reg16) (o : Mem) : encode (st16Form r o) = wideMemBytes (st16Opcode r) o := by
  cases r <;> cases o <;> rfl

theorem exec_st16Form (r : Reg16) (o : Mem) (s : State) : exec (st16Form r o) s = wideStore r o s := by
  cases r <;> cases o <;> rfl

/-- Settles O48. -/
theorem store16Effect : Obligations.Store16Effect := by
  intro r o s v
  obtain ⟨t, ht, hcc, hregs, hcontrol, hplatform, run⟩ := wideStore_spec r o s
  have hflag (k : Flag) : t.flag k = getFlag (logicFlags16 v s.cc) k := State.flag_of_cc hcc k
  refine ⟨encode_st16Form r o, t, (exec_st16Form r o s).trans ht, ⟨by simp [hflag], by simp [hflag, beq_eq_decide]⟩,
    by simp [hflag], ⟨hregs, fun k hk => ?_, hcontrol, hplatform⟩, run.stores_word, run.makes⟩
  simp only [List.mem_cons, List.not_mem_nil, or_false, not_or] at hk
  simp [hflag, hk, State.flag_def]

/-! ## The pulls and the return from an interrupt -/

/-- Settles O52, by the laws of a pull of registers; the two instructions differ in the stack only. -/
theorem pullEffect : Obligations.PullEffect := by
  intro k l s
  obtain ⟨bs, hlen, ⟨run, reads⟩, cc, a, b, dp, x, y, other, pc, top, _⟩ := s.pullRegs_spec k l
  obtain ⟨control, platform, memory⟩ := s.pullRegs_control k l
  cases k with
  | s => exact ⟨rfl, _, bs, rfl, hlen, reads, run.makes, cc, a, b, dp, x, y, other, pc, top, control, platform, memory⟩
  | u => exact ⟨rfl, _, bs, rfl, hlen, reads, run.makes, cc, a, b, dp, x, y, other, pc, top, control, platform, memory⟩

/-- Settles O56. -/
theorem rtiEffect : Obligations.RtiEffect := by
  intro s
  obtain ⟨bs, ⟨run, reads⟩, cc, _, entire, short, _⟩ := s.returnFromInterrupt_spec
  exact ⟨rfl, _, bs, rfl, reads, run.makes, cc, entire, short, s.returnFromInterrupt_keeps⟩

/-! ## A pull after its push -/

/-- A register of one byte that is pushed or not is skipped by as many places. -/
theorem pulled_skip8 (c : Bool) (v : Byte) (q : List Byte) (i : Nat) :
    pulled ((if c then [v] else []) ++ q) (c.toNat + i) = pulled q i := by
  have h : (if c then [v] else []).length = c.toNat := (optional_length c [v]).trans (Nat.mul_one _)
  rw [← h, pulled_append_right]

theorem pulledWord_skip8 (c : Bool) (v : Byte) (q : List Byte) (i : Nat) :
    pulledWord ((if c then [v] else []) ++ q) (c.toNat + i) = pulledWord q i := by
  unfold pulledWord
  rw [Nat.add_assoc, pulled_skip8, pulled_skip8]

theorem pulledWord_skip16 (c : Bool) (v : Word) (q : List Byte) (i : Nat) :
    pulledWord ((if c then wordBytes v else []) ++ q) (2 * c.toNat + i) = pulledWord q i := by
  have h : (if c then wordBytes v else []).length = 2 * c.toNat := (optional_length c (wordBytes v)).trans (Nat.mul_comm _ _)
  rw [← h, pulledWord_append_right]

theorem pulledWord_wordBytes (v : Word) (q : List Byte) : pulledWord (wordBytes v ++ q) 0 = v := word_hi_lo v

/-- Each register pushed stands among the bytes of the push where the pull of the same list finds it (20_memory.md R66). -/
theorem State.pulled_pushedBytes (s : State) (k : Stack) (l : RegList) :
    (l.cc = true → pulled (s.pushedBytes k l) 0 = s.cc) ∧
    (l.a = true → pulled (s.pushedBytes k l) (offA l) = s.a) ∧
    (l.b = true → pulled (s.pushedBytes k l) (offB l) = s.b) ∧
    (l.dp = true → pulled (s.pushedBytes k l) (offDp l) = s.dp) ∧
    (l.x = true → pulledWord (s.pushedBytes k l) (offX l) = s.x) ∧
    (l.y = true → pulledWord (s.pushedBytes k l) (offY l) = s.y) ∧
    (l.other = true → pulledWord (s.pushedBytes k l) (offOther l) = s.other k) ∧
    (l.pc = true → pulledWord (s.pushedBytes k l) (offPc l) = s.pc) := by
  unfold offPc offOther offY offX offDp offB offA State.pushedBytes
  simp only [List.append_assoc, Nat.add_assoc]
  refine ⟨fun h => ?_, fun h => ?_, fun h => ?_, fun h => ?_, fun h => ?_, fun h => ?_, fun h => ?_, fun h => ?_⟩
  · rw [if_pos h]; rfl
  · rw [← Nat.add_zero l.cc.toNat, pulled_skip8, if_pos h]; rfl
  · rw [← Nat.add_zero l.a.toNat, pulled_skip8, pulled_skip8, if_pos h]; rfl
  · rw [← Nat.add_zero l.b.toNat, pulled_skip8, pulled_skip8, pulled_skip8, if_pos h]; rfl
  · rw [← Nat.add_zero l.dp.toNat]
    simp only [pulledWord_skip8]
    rw [if_pos h, pulledWord_wordBytes]
  · rw [← Nat.add_zero (2 * l.x.toNat)]
    simp only [pulledWord_skip8, pulledWord_skip16]
    rw [if_pos h, pulledWord_wordBytes]
  · rw [← Nat.add_zero (2 * l.y.toNat)]
    simp only [pulledWord_skip8, pulledWord_skip16]
    rw [if_pos h, pulledWord_wordBytes]
  · rw [← Nat.add_zero (2 * l.other.toNat)]
    simp only [pulledWord_skip8, pulledWord_skip16]
    rw [if_pos h]
    exact pulledWord_wordBytes s.pc []

/-- What a pull after its push reads are the bytes pushed, so that each register of the list gets its own byte or word back, and
every other is not touched. -/
theorem State.pullRegs_pushRegs {s : State} {k : Stack} {l : RegList} (hwf : s.mem.wf = true)
    (hram : ∀ i, i < listSize l →
      kindAt s.memMap (above (s.top k - BitVec.ofNat 16 (listSize l)) i) = .ram ∧
      Undisturbed s (above (s.top k - BitVec.ofNat 16 (listSize l)) i)) :
    ((s.pushRegs k l).pullRegs k l).cc = s.cc ∧ KeepsRegs s ((s.pushRegs k l).pullRegs k l) [] := by
  obtain ⟨bs, hlen, ⟨_, reads⟩, cc, a, b, dp, x, y, other, pc, top, _⟩ := (s.pushRegs k l).pullRegs_spec k l
  have hbs : bs = s.pushedBytes k l := by
    refine reads.eq_stored (s.pushRegs_pushed k l) (s.pushRegs_stores k l) hwf (hlen.trans (s.pushedBytes_length k l).symm) ?_
    rw [s.pushedBytes_length, s.pushRegs_top]
    exact hram
  subst hbs
  obtain ⟨pcc, pa, pb, pdp, px, py, pother, ppc⟩ := s.pulled_pushedBytes k l
  have kept {α : Type} {c : Bool} {p q r : α} (h : c = true → p = r) (hq : q = r) : (if c then p else q) = r :=
    ite_eq_iff'.mpr ⟨h, fun _ => hq⟩
  have htop : ((s.pushRegs k l).pullRegs k l).top k = s.top k := by rw [top, s.pushRegs_top, above_sub]
  have hother := other.trans (kept pother (s.pushRegs_other k l))
  refine ⟨cc.trans (kept pcc (s.pushRegs_cc k l)), fun r _ => ?_⟩
  cases r with
  | a => exact congrArg zext8 (a.trans (kept pa (s.pushRegs_a k l)))
  | b => exact congrArg zext8 (b.trans (kept pb (s.pushRegs_b k l)))
  | dp => exact congrArg zext8 (dp.trans (kept pdp (s.pushRegs_dp k l)))
  | x => exact x.trans (kept px (s.pushRegs_x k l))
  | y => exact y.trans (kept py (s.pushRegs_y k l))
  | pc => exact pc.trans (kept ppc (s.pushRegs_pc k l))
  | u =>
    cases k with
    | s => exact hother
    | u => exact htop
  | s =>
    cases k with
    | s => exact htop
    | u => exact hother

/-- Settles O29. -/
theorem pullUndoesPush : Obligations.PullUndoesPush := by
  intro k l s h hram
  obtain ⟨hcc, hregs⟩ := State.pullRegs_pushRegs h.1 hram
  cases k with
  | s => exact ⟨_, _, rfl, rfl, hregs, .of_cc hcc []⟩
  | u => exact ⟨_, _, rfl, rfl, hregs, .of_cc hcc []⟩

end Sys2Proof.Machine

/-! # Proofs about the encoding (30_encoding.md): the rows of the opcode map, decoding and encoding, what has no meaning; the
effective addresses; the 16-bit compares and loads, the jumps -/

namespace Sys2Proof

/-! ## The rows of the opcode map -/

/-- The format of an opcode, its page byte with it if it has one (30_encoding.md R82, R84, R86, R87). -/
def formatOf : List Byte → Option Format
  | [op] => page1 op.toNat
  | [page, op] => if page = 0x10#8 then page2 op.toNat else if page = 0x11#8 then page3 op.toNat else none
  | _ => none

/-- The operand bytes `bs` make the instruction `i` in a format (30_encoding.md R85, R112). -/
inductive Format.Writes : Format → List Byte → Instr → Prop
  | inherent (i : Instr) : Writes (.inherent i) [] i
  | immediate8 (g : Byte → Instr) (m : Byte) : Writes (.immediate8 g) [m] (g m)
  | immediate16 (g : Word → Instr) (m : Word) : Writes (.immediate16 g) [hiByte m, loByte m] (g m)
  | direct (g : Byte → Instr) (d : Byte) : Writes (.direct g) [d] (g d)
  | extended (g : Word → Instr) (a : Word) : Writes (.extended g) [hiByte a, loByte a] (g a)
  | indexed (g : Idx → Instr) (ix : Idx) : Writes (.indexed g) (encodeIdx ix) (g ix)
  | relative8 (g : Byte → Instr) (o : Byte) : Writes (.relative8 g) [o] (g o)
  | relative16 (g : Word → Instr) (o : Word) : Writes (.relative16 g) [hiByte o, loByte o] (g o)
  | registers (g : XReg → XReg → Instr) (r1 r2 : XReg) (like : (r1.is8 == r2.is8) = true) :
      Writes (.registers g) [registersByte r1 r2] (g r1 r2)
  | registerList (g : RegList → Instr) (l : RegList) : Writes (.registerList g) [registerListByte l] (g l)

/-- The opcode `op` is on the opcode map, and the operand bytes `bs` make the instruction `i` in its format. -/
def OpcodeRow (op bs : List Byte) (i : Instr) : Prop := ∃ f, formatOf op = some f ∧ f.Writes bs i

/-- The encoder agrees with page 1, row by row; EXG and TFR are well formed by their operand, the others as they stand. -/
theorem encode_of_page1 {k : Nat} {f : Format} {bs : List Byte} {i : Instr} (hk : k < 256) (hf : page1 k = some f)
    (h : f.Writes bs i) : encode i = BitVec.ofNat 8 k :: bs ∧ i.wf = true := by
  interval_cases k <;> cases hf <;> cases h <;> first | exact ⟨rfl, rfl⟩ | exact ⟨rfl, ‹_›⟩

theorem encode_of_page2 {k : Nat} {f : Format} {bs : List Byte} {i : Instr} (hf : page2 k = some f)
    (h : f.Writes bs i) : encode i = 0x10 :: BitVec.ofNat 8 k :: bs ∧ i.wf = true := by
  unfold page2 at hf
  split at hf <;> cases hf <;> cases h <;> exact ⟨rfl, rfl⟩

theorem encode_of_page3 {k : Nat} {f : Format} {bs : List Byte} {i : Instr} (hf : page3 k = some f)
    (h : f.Writes bs i) : encode i = 0x11 :: BitVec.ofNat 8 k :: bs ∧ i.wf = true := by
  unfold page3 at hf
  split at hf <;> cases hf <;> cases h <;> exact ⟨rfl, rfl⟩

/-- The encoder writes the row of a well-formed instruction. -/
theorem OpcodeRow.encode_and_wf {op bs : List Byte} {i : Instr} (h : OpcodeRow op bs i) : encode i = op ++ bs ∧ i.wf = true := by
  obtain ⟨f, hf, hw⟩ := h
  have byte (b : Byte) : BitVec.ofNat 8 b.toNat = b := by simp
  unfold formatOf at hf
  split at hf
  · next b => exact byte b ▸ encode_of_page1 b.isLt hf hw
  · next page b =>
    split at hf
    · next hp => subst hp; exact byte b ▸ encode_of_page2 hf hw
    · split at hf
      · next hp => subst hp; exact byte b ▸ encode_of_page3 hf hw
      · cases hf
  · cases hf

/-- How many of some bytes are the opcode: one, or two where the first names a page (30_encoding.md R82). -/
def opcodeLength (bs : List Byte) : Nat := if isPrefix (bs.headD 0) then 2 else 1

/-- The opcode of some bytes. -/
def opcodeOf (bs : List Byte) : List Byte := bs.take (opcodeLength bs)

/-- The bytes after the opcode. -/
def operandsOf (bs : List Byte) : List Byte := bs.drop (opcodeLength bs)

theorem opcodeOf_append_operandsOf (bs : List Byte) : opcodeOf bs ++ operandsOf bs = bs := List.take_append_drop _ _

/-- Every well-formed instruction has a row, which its encoding shows. -/
theorem OpcodeRow.of_wf {i : Instr} (h : i.wf = true) : OpcodeRow (opcodeOf (encode i)) (operandsOf (encode i)) i := by
  cases i with
  | exg r1 r2 => exact ⟨_, rfl, .registers _ r1 r2 h⟩
  | tfr r1 r2 => exact ⟨_, rfl, .registers _ r1 r2 h⟩
  | _ => exact ⟨_, rfl, by constructor⟩

/-! ## The operand bytes -/

theorem word_of_two (v : Word) (rest : List Byte) :
    word (([hiByte v, loByte v] ++ rest).getD 0 0) (([hiByte v, loByte v] ++ rest).getD 1 0) = v := Machine.word_hi_lo v

/-- The operand bytes of a format are read back, whatever follows (30_encoding.md R85). -/
theorem Format.Writes.decodeOperands_eq {f : Format} {bs : List Byte} {i : Instr} (h : f.Writes bs i) (n : Nat)
    (rest : List Byte) :
    decodeOperands f n ((bs ++ rest).getD 0 0) ((bs ++ rest).getD 1 0) ((bs ++ rest).getD 2 0) =
      .instr i (n + bs.length) := by
  cases h with
  | inherent | immediate8 | direct | relative8 => rfl
  | immediate16 g v | extended g v | relative16 g v =>
    exact congrArg (Decoded.instr · (n + 2)) (congrArg g (word_of_two v rest))
  | registerList g l => exact congrArg (Decoded.instr · (n + 1)) (congrArg g (decodeRegisterList_registerListByte l))
  | registers g r1 r2 like => simp [decodeOperands, decodeRegisters_registersByte r1 r2 (beq_iff_eq.mp like)]
  | indexed g ix =>
    have := encodeIdx_length ix
    simp only [decodeOperands, decodeIdx_encodeIdx, Decoded.instr.injEq, true_and]
    omega

/-- The two registers of a legal EXG or TFR postbyte: one for each nibble, of one width (30_encoding.md R97, R122). -/
theorem decodeRegisters_eq_some {pb : Byte} {r1 r2 : XReg} (h : decodeRegisters pb = some (r1, r2)) :
    xregOfCode (pb.extractLsb' 4 4) = some r1 ∧ xregOfCode (pb.extractLsb' 0 4) = some r2 ∧ (r1.is8 == r2.is8) = true := by
  unfold decodeRegisters at h
  split at h
  · next h1 h2 =>
    split at h
    · next like => cases h; exact ⟨h1, h2, like⟩
    · cases h
  · cases h

/-- An indexed operand takes as many bytes as it is encoded in (30_encoding.md R109). -/
theorem encodeIdx_length_of_decodeIdx {pb o1 o2 : Byte} {ix : Idx} {k : Nat} (h : decodeIdx pb o1 o2 = some (ix, k)) :
    (encodeIdx ix).length = 1 + k := by
  unfold decodeIdx at h
  split at h
  · split at h <;> simp only [Option.ite_none_left_eq_some, Option.ite_none_right_eq_some, Option.some.injEq,
      Prod.mk.injEq, reduceCtorEq] at h
    case h_1 | h_3 | h_13 => obtain ⟨_, rfl, rfl⟩ := h; rfl
    all_goals obtain ⟨rfl, rfl⟩ := h; rfl
  · cases h; rfl

/-- What is read as operands are operand bytes of the format. -/
theorem Format.writes_of_decodeOperands {f : Format} {n len : Nat} {o0 o1 o2 : Byte} {i : Instr}
    (h : decodeOperands f n o0 o1 o2 = .instr i len) : ∃ bs, f.Writes bs i ∧ len = n + bs.length := by
  cases f with
  | inherent | immediate8 | immediate16 | direct | extended | relative8 | relative16 | registerList =>
    obtain ⟨rfl, rfl⟩ := Decoded.instr.inj h
    exact ⟨_, by constructor, rfl⟩
  | registers g =>
    simp only [decodeOperands] at h
    split at h
    · next r1 r2 hd =>
      obtain ⟨rfl, rfl⟩ := Decoded.instr.inj h
      obtain ⟨_, _, like⟩ := decodeRegisters_eq_some hd
      exact ⟨_, .registers g r1 r2 like, rfl⟩
    · cases h
  | indexed g =>
    simp only [decodeOperands] at h
    split at h
    · next ix k hd =>
      obtain ⟨rfl, rfl⟩ := Decoded.instr.inj h
      exact ⟨_, .indexed g ix, by rw [encodeIdx_length_of_decodeIdx hd, Nat.add_assoc]⟩
    · cases h

/-! ## The window -/

/-- The bytes of a window. -/
def Window.bytes (w : Window) : List Byte := [w.b0, w.b1, w.b2, w.b3, w.b4]

theorem isPrefix_iff (b : Byte) : isPrefix b = true ↔ b.toNat = 0x10 ∨ b.toNat = 0x11 := by
  simp [isPrefix, ← BitVec.toNat_inj]

theorem opcodeOf_window_of_prefix {w : Window} (h : w.b0.toNat = 0x10 ∨ w.b0.toNat = 0x11) :
    opcodeOf w.bytes = [w.b0, w.b1] ∧ operandsOf w.bytes = [w.b2, w.b3, w.b4] := by
  have hl : opcodeLength w.bytes = 2 := if_pos ((isPrefix_iff w.b0).mpr h)
  rw [opcodeOf, operandsOf, hl]
  exact ⟨rfl, rfl⟩

theorem opcodeOf_window_of_not_prefix {w : Window} (h : ¬(w.b0.toNat = 0x10 ∨ w.b0.toNat = 0x11)) :
    opcodeOf w.bytes = [w.b0] ∧ operandsOf w.bytes = [w.b1, w.b2, w.b3, w.b4] := by
  have hl : opcodeLength w.bytes = 1 := if_neg ((isPrefix_iff w.b0).not.mpr h)
  rw [opcodeOf, operandsOf, hl]
  exact ⟨rfl, rfl⟩

theorem opcodeOf_window (w : Window) :
    opcodeOf w.bytes = if w.b0.toNat = 0x10 ∨ w.b0.toNat = 0x11 then [w.b0, w.b1] else [w.b0] := by
  split
  · next h => exact (opcodeOf_window_of_prefix h).1
  · next h => exact (opcodeOf_window_of_not_prefix h).1

/-- The page byte says on which page an opcode is looked up (30_encoding.md R82). -/
theorem formatOf_window (w : Window) : formatOf (opcodeOf w.bytes) =
    if w.b0.toNat = 0x10 then page2 w.b1.toNat else if w.b0.toNat = 0x11 then page3 w.b1.toNat else page1 w.b0.toNat := by
  rw [opcodeOf_window]
  by_cases h2 : w.b0.toNat = 0x10
  · simp [formatOf, h2, ← BitVec.toNat_inj]
  · by_cases h3 : w.b0.toNat = 0x11 <;> simp [formatOf, h2, h3, ← BitVec.toNat_inj]

/-- The decoder in one equation: the opcode's format reads the bytes after it (30_encoding.md R80). -/
theorem decode_eq (w : Window) : decode w = (formatOf (opcodeOf w.bytes)).elim (.illegalOpcode (opcodeOf w.bytes))
    fun f => decodeOperands f (opcodeOf w.bytes).length ((operandsOf w.bytes).getD 0 0) ((operandsOf w.bytes).getD 1 0)
      ((operandsOf w.bytes).getD 2 0) := by
  rw [formatOf_window, decode]
  by_cases h2 : w.b0 = 0x10#8
  · have n2 : w.b0.toNat = 0x10 := congrArg BitVec.toNat h2
    obtain ⟨hop, hrest⟩ := opcodeOf_window_of_prefix (.inl n2)
    rw [if_pos h2, if_pos n2, hop, hrest]
    cases page2 w.b1.toNat <;> rfl
  have n2 : ¬w.b0.toNat = 0x10 := fun e => h2 (BitVec.eq_of_toNat_eq e)
  by_cases h3 : w.b0 = 0x11#8
  · have n3 : w.b0.toNat = 0x11 := congrArg BitVec.toNat h3
    obtain ⟨hop, hrest⟩ := opcodeOf_window_of_prefix (.inr n3)
    rw [if_neg h2, if_neg n2, if_pos h3, if_pos n3, hop, hrest]
    cases page3 w.b1.toNat <;> rfl
  · have n3 : ¬w.b0.toNat = 0x11 := fun e => h3 (BitVec.eq_of_toNat_eq e)
    obtain ⟨hop, hrest⟩ := opcodeOf_window_of_not_prefix (not_or.mpr ⟨n2, n3⟩)
    rw [if_neg h2, if_neg n2, if_neg h3, if_neg n3, hop, hrest]
    cases page1 w.b0.toNat <;> rfl

theorem not_prefix_of_page1 {b : Byte} {f : Format} (h : page1 b.toNat = some f) : ¬(b.toNat = 0x10 ∨ b.toNat = 0x11) := by
  rintro (e | e) <;> rw [e] at h <;> cases h

/-- Bytes that begin with an opcode of the map are decoded in its format. -/
theorem decode_append {op : List Byte} {f : Format} (h : formatOf op = some f) (bs : List Byte) :
    decode (Window.ofList (op ++ bs)) = decodeOperands f op.length (bs.getD 0 0) (bs.getD 1 0) (bs.getD 2 0) := by
  have hf := h
  unfold formatOf at h
  split at h
  · next b =>
    have hl : opcodeLength (Window.ofList ([b] ++ bs)).bytes = 1 :=
      if_neg ((isPrefix_iff b).not.mpr (not_prefix_of_page1 h))
    rw [decode_eq, opcodeOf, operandsOf, hl]
    exact congrArg (Option.elim · _ _) hf
  · next page b =>
    have hp : isPrefix page = true := by unfold isPrefix; split at h <;> simp_all
    have hl : opcodeLength (Window.ofList ([page, b] ++ bs)).bytes = 2 := if_pos hp
    rw [decode_eq, opcodeOf, operandsOf, hl]
    exact congrArg (Option.elim · _ _) hf
  · cases h

/-! ## Decoding and encoding -/

/-- A row is decoded to its instruction, whatever follows (30_encoding.md R80, R89). -/
theorem OpcodeRow.decodes {op bs : List Byte} {i : Instr} (h : OpcodeRow op bs i) (rest : List Byte) :
    decode (Window.ofList (op ++ bs ++ rest)) = .instr i (op.length + bs.length) := by
  obtain ⟨f, hf, hw⟩ := h
  rw [List.append_assoc, decode_append hf, hw.decodeOperands_eq]

/-- What is decoded is a row that begins with the window's opcode. -/
theorem OpcodeRow.of_decode {w : Window} {i : Instr} {n : Nat} (h : decode w = .instr i n) :
    ∃ bs, OpcodeRow (opcodeOf w.bytes) bs i ∧ n = (opcodeOf w.bytes).length + bs.length := by
  rw [decode_eq] at h
  cases hf : formatOf (opcodeOf w.bytes) with
  | none => rw [hf] at h; cases h
  | some f =>
    rw [hf] at h
    obtain ⟨bs, hw, hn⟩ := Format.writes_of_decodeOperands h
    exact ⟨bs, ⟨f, hf, hw⟩, hn⟩

theorem decode_encode {i : Instr} (h : i.wf = true) (rest : List Byte) :
    decode (Window.ofList (encode i ++ rest)) = .instr i (encode i).length := by
  have hrow := (OpcodeRow.of_wf h).decodes rest
  rwa [← List.length_append, opcodeOf_append_operandsOf] at hrow

/-- Settles O1, by the row of the instruction. -/
theorem decodeOfEncode : Obligations.DecodeOfEncode := fun _ rest h => decode_encode h rest

/-- The first bytes of a list, filled up with $00, are those of its window. -/
theorem getD_take_append (bs rest : List Byte) {n k : Nat} (hn : n ≤ 5) (hk : k < n) :
    ((bs ++ List.replicate 5 0).take n ++ rest).getD k 0 = bs.getD k 0 := by
  rw [List.getD_append _ _ _ _ (by simp; omega)]
  simp only [List.getD_eq_getElem?_getD, List.getElem?_take_of_lt hk]
  by_cases h : k < bs.length
  · rw [List.getElem?_append_left h]
  · rw [List.getElem?_append_right (by omega), List.getElem?_replicate_of_lt (by omega), List.getElem?_eq_none (by omega)]
    rfl

/-- Settles O2, by the row of what is decoded. -/
theorem decodedInstructionIsWellFormed : Obligations.DecodedInstructionIsWellFormed := by
  intro bs i n h
  obtain ⟨ops, hrow, hn⟩ := OpcodeRow.of_decode h
  obtain ⟨henc, hwf⟩ := hrow.encode_and_wf
  have h5 : n ≤ 5 := decode_length h
  have same (rest : List Byte) (k : Nat) (hk : k + 1 ≤ n) :
      ((bs ++ List.replicate 5 0).take n ++ rest).getD k 0 = bs.getD k 0 := getD_take_append bs rest h5 hk
  have hd (rest : List Byte) :
      1 ≤ n ∧ decode (Window.ofList ((bs ++ List.replicate 5 0).take n ++ rest)) = .instr i n :=
    decode_prefix h (same rest 0) (same rest 1) (same rest 2) (same rest 3) (same rest 4)
  exact ⟨hwf, by rw [henc, List.length_append, hn], (hd []).1, h5, fun rest => (hd rest).2⟩

/-- Settles O3: each word is the encoding of its instruction. -/
theorem sampleWordsDecode : Obligations.SampleWordsDecode :=
  ⟨decode_encode (i := .addaImm 0x80) rfl [], decode_encode (i := .ldxImm 0x8004) rfl [],
    decode_encode (i := .ldaDir 0x9B) rfl [], decode_encode (i := .lduExt 0x2000) rfl [],
    decode_encode (i := .leax (.pcr16 false 0xE28A)) rfl [], decode_encode (i := .ldyIdx (.off16 .x false 0x03E8)) rfl [],
    decode_encode (i := .ldaIdx (.extInd 0xF000)) rfl [], decode_encode (i := .leas (.off5 .s 0x16)) rfl [],
    decode_encode (i := .tfr .a .b) rfl [],
    decode_encode (i := .pshs ⟨false, true, false, true, false, true, true, false⟩) rfl [],
    decode_encode (i := .bra 0xFE) rfl [], decode_encode (i := .lbmi 0x0100) rfl [], decode_encode (i := .swi3) rfl []⟩

/-! ## Opcodes without a meaning -/

theorem decodeOperands_ne_illegalOpcode (f : Format) (n : Nat) (o0 o1 o2 : Byte) (bs : List Byte) :
    decodeOperands f n o0 o1 o2 ≠ .illegalOpcode bs := by
  cases f with
  | registers | indexed => simp only [decodeOperands]; split <;> simp
  | _ => nofun

theorem decode_eq_illegalOpcode_iff (w : Window) (bs : List Byte) :
    decode w = .illegalOpcode bs ↔ formatOf (opcodeOf w.bytes) = none ∧ bs = opcodeOf w.bytes := by
  rw [decode_eq]
  cases formatOf (opcodeOf w.bytes) with
  | none => simp [eq_comm]
  | some f => simp [decodeOperands_ne_illegalOpcode]

/-- Page 1 has no format for its 33 unused opcodes and for the two page bytes (30_encoding.md R82, R90). -/
theorem page1_eq_none_iff (b : Byte) : page1 b.toNat = none ↔ b.toNat ∈ [0x10, 0x11] ∨ b.toNat ∈ [0x01, 0x02, 0x05, 0x0B, 0x14,
    0x15, 0x18, 0x1B, 0x38, 0x3E, 0x41, 0x42, 0x45, 0x4B, 0x4E, 0x51, 0x52, 0x55, 0x5B, 0x5E, 0x61, 0x62, 0x65, 0x6B, 0x71,
    0x72, 0x75, 0x7B, 0x87, 0x8F, 0xC7, 0xCD, 0xCF] := by
  revert b; decide

theorem page2_eq_none_iff (b : Byte) : page2 b.toNat = none ↔ b.toNat ∉ [0x21, 0x22, 0x23, 0x24, 0x25, 0x26, 0x27, 0x28, 0x29,
    0x2A, 0x2B, 0x2C, 0x2D, 0x2E, 0x2F, 0x3F, 0x83, 0x8C, 0x8E, 0x93, 0x9C, 0x9E, 0x9F, 0xA3, 0xAC, 0xAE, 0xAF, 0xB3, 0xBC,
    0xBE, 0xBF, 0xCE, 0xDE, 0xDF, 0xEE, 0xEF, 0xFE, 0xFF] := by
  revert b; decide

theorem page3_eq_none_iff (b : Byte) :
    page3 b.toNat = none ↔ b.toNat ∉ [0x3F, 0x83, 0x8C, 0x93, 0x9C, 0xA3, 0xAC, 0xB3, 0xBC] := by
  revert b; decide

/-- Settles O4, page by page. -/
theorem unusedOpcodesAreIllegal : Obligations.UnusedOpcodesAreIllegal := by
  intro w
  simp only [decode_eq_illegalOpcode_iff, ← opcodeOf_window]
  refine ⟨?_, fun bs h => h.2⟩
  rw [exists_eq_right, formatOf_window]
  by_cases h2 : w.b0.toNat = 0x10
  · rw [if_pos h2, page2_eq_none_iff]
    simp [h2]
  · by_cases h3 : w.b0.toNat = 0x11
    · rw [if_neg h2, if_pos h3, page3_eq_none_iff]
      simp [h3]
    · rw [if_neg h2, if_neg h3, page1_eq_none_iff]
      simp [h2, h3]

/-! ## Postbytes without a meaning -/

/-- The postbytes that an indexed instruction cannot have (30_encoding.md R121). -/
def illegalPostbytes : List Nat :=
  [0x87, 0x8A, 0x8E, 0x97, 0x9A, 0x9E, 0xA7, 0xAA, 0xAE, 0xB7, 0xBA, 0xBE, 0xC7, 0xCA, 0xCE, 0xD7, 0xDA, 0xDE, 0xE7, 0xEA, 0xEE,
    0xF7, 0xFA, 0xFE, 0x90, 0xB0, 0xD0, 0xF0, 0x92, 0xB2, 0xD2, 0xF2, 0x8F, 0xAF, 0xCF, 0xEF, 0xBF, 0xDF, 0xFF]

/-- The bytes after a postbyte do not make it legal. -/
theorem decodeIdx_isNone (pb o1 o2 : Byte) : (decodeIdx pb o1 o2).isNone = (decodeIdx pb 0 0).isNone := by
  unfold decodeIdx
  split
  · split <;> (try split) <;> rfl
  · rfl

theorem decodeIdx_eq_none_iff (pb o1 o2 : Byte) : decodeIdx pb o1 o2 = none ↔ pb.toNat ∈ illegalPostbytes := by
  rw [← Option.isNone_iff_eq_none, decodeIdx_isNone]
  revert pb; decide

theorem decodeOperands_eq_illegalPostbyte_iff (f : Format) (n : Nat) (o0 o1 o2 pb : Byte) :
    decodeOperands f n o0 o1 o2 = .illegalPostbyte pb ↔
      (∃ g, f = .indexed g) ∧ pb = o0 ∧ pb.toNat ∈ illegalPostbytes := by
  cases f with
  | indexed g =>
    have hnone := decodeIdx_eq_none_iff o0 o1 o2
    cases hd : decodeIdx o0 o1 o2 with
    | none =>
      simp only [decodeOperands, hd, Decoded.illegalPostbyte.injEq, eq_comm (a := o0)]
      exact ⟨fun h => ⟨⟨g, rfl⟩, h, h ▸ hnone.mp hd⟩, fun ⟨_, h, _⟩ => h⟩
    | some p =>
      simp only [decodeOperands, hd, reduceCtorEq, false_iff]
      rintro ⟨_, rfl, h⟩
      exact Option.some_ne_none p (hd.symm.trans (hnone.mpr h))
  | registers g => simp only [decodeOperands]; split <;> simp
  | _ => simp [decodeOperands]

theorem decode_eq_illegalPostbyte_iff (w : Window) (pb : Byte) :
    decode w = .illegalPostbyte pb ↔ (∃ g, formatOf (opcodeOf w.bytes) = some (.indexed g)) ∧
      pb = (operandsOf w.bytes).getD 0 0 ∧ pb.toNat ∈ illegalPostbytes := by
  rw [decode_eq]
  cases formatOf (opcodeOf w.bytes) with
  | none => simp
  | some f => simp [decodeOperands_eq_illegalPostbyte_iff]

/-- Whether an opcode has an indexed operand. -/
def isIndexed : Option Format → Bool
  | some (.indexed _) => true
  | _ => false

theorem exists_of_isIndexed {o : Option Format} (h : isIndexed o = true) : ∃ g, o = some (.indexed g) := by
  unfold isIndexed at h
  split at h
  · exact ⟨_, rfl⟩
  · cases h

theorem page1_indexed : ∀ k ∈ [0x30, 0x31, 0x32, 0x33, 0x60, 0x63, 0x64, 0x66, 0x67, 0x68, 0x69, 0x6A, 0x6C, 0x6D, 0x6E, 0x6F,
    0xA0, 0xA1, 0xA2, 0xA3, 0xA4, 0xA5, 0xA6, 0xA7, 0xA8, 0xA9, 0xAA, 0xAB, 0xAC, 0xAD, 0xAE, 0xAF, 0xE0, 0xE1, 0xE2, 0xE3,
    0xE4, 0xE5, 0xE6, 0xE7, 0xE8, 0xE9, 0xEA, 0xEB, 0xEC, 0xED, 0xEE, 0xEF],
    isIndexed (page1 k) = true := by decide

theorem page2_indexed : ∀ k ∈ [0xA3, 0xAC, 0xAE, 0xAF, 0xEE, 0xEF], isIndexed (page2 k) = true := by decide

theorem page3_indexed : ∀ k ∈ [0xA3, 0xAC], isIndexed (page3 k) = true := by decide

/-- An indexed opcode is followed by its postbyte. -/
theorem decode_eq_illegalPostbyte_of_indexed {w : Window} {pb : Byte} {rest : List Byte}
    (hf : isIndexed (formatOf (opcodeOf w.bytes)) = true) (ho : operandsOf w.bytes = pb :: rest) :
    decode w = .illegalPostbyte pb ↔ pb.toNat ∈ illegalPostbytes := by
  rw [decode_eq_illegalPostbyte_iff, ho]
  exact ⟨fun ⟨_, _, h⟩ => h, fun h => ⟨exists_of_isIndexed hf, rfl, h⟩⟩

/-- Settles O5. -/
theorem illegalIndexedPostbytes : Obligations.IllegalIndexedPostbytes := by
  intro w illegal
  refine ⟨fun h => ?_, fun h => ?_, fun pb h => ((decode_eq_illegalPostbyte_iff w pb).mp h).2.2⟩
  · obtain ⟨g, hg⟩ := exists_of_isIndexed (page1_indexed _ h)
    have hp := not_prefix_of_page1 hg
    obtain ⟨hop, hrest⟩ := opcodeOf_window_of_not_prefix hp
    exact decode_eq_illegalPostbyte_of_indexed (by rw [hop]; exact page1_indexed _ h) hrest
  · obtain ⟨hop, hrest⟩ := opcodeOf_window_of_prefix (h.imp And.left And.left)
    refine decode_eq_illegalPostbyte_of_indexed ?_ hrest
    rw [formatOf_window]
    rcases h with ⟨h2, h⟩ | ⟨h3, h⟩
    · rw [if_pos h2]; exact page2_indexed _ h
    · rw [if_neg (by omega), if_pos h3]; exact page3_indexed _ h

/-! ## Register codes without a meaning -/

/-- Both nibbles are codes of 16-bit registers, or both of 8-bit ones (30_encoding.md R97). -/
def LikeCodes (pb : Byte) : Prop :=
  (pb.toNat / 16 ≤ 5 ∧ pb.toNat % 16 ≤ 5) ∨
    (8 ≤ pb.toNat / 16 ∧ pb.toNat / 16 ≤ 11 ∧ 8 ≤ pb.toNat % 16 ∧ pb.toNat % 16 ≤ 11)

theorem decodeRegisters_eq_none_iff (pb : Byte) : decodeRegisters pb = none ↔ ¬LikeCodes pb := by
  unfold LikeCodes; revert pb; decide

theorem xregCode_of_xregOfCode : ∀ c : BitVec 4, ∀ r ∈ xregOfCode c, xregCode r = c := by decide

/-- The high nibble names the first register, the low one the second (30_encoding.md R97). -/
theorem xregCode_of_decodeRegisters {pb : Byte} {r1 r2 : XReg} (h : decodeRegisters pb = some (r1, r2)) :
    (xregCode r1).toNat = pb.toNat / 16 ∧ (xregCode r2).toNat = pb.toNat % 16 := by
  obtain ⟨h1, h2, _⟩ := decodeRegisters_eq_some h
  have := pb.isLt
  rw [xregCode_of_xregOfCode _ _ h1, xregCode_of_xregOfCode _ _ h2]
  simp only [BitVec.extractLsb'_toNat, Nat.shiftRight_eq_div_pow]
  omega

theorem decode_of_registers {w : Window} {g : XReg → XReg → Instr} (hf : page1 w.b0.toNat = some (.registers g)) :
    decode w = (decodeRegisters w.b1).elim (.undefinedRegisterCode w.b1) fun p => .instr (g p.1 p.2) 2 := by
  obtain ⟨hop, hrest⟩ := opcodeOf_window_of_not_prefix (not_prefix_of_page1 hf)
  have hformat : formatOf (opcodeOf w.bytes) = some (.registers g) := by rw [hop]; exact hf
  rw [decode_eq, hformat, hop, hrest]
  show decodeOperands (.registers g) 1 w.b1 w.b2 w.b3 = _
  cases h : decodeRegisters w.b1 <;> simp [decodeOperands, h]

/-- The postbyte of EXG or TFR is refused, or names the source and the destination (30_encoding.md R97, R122). -/
theorem decode_registers_cases {w : Window} {g : XReg → XReg → Instr} (hf : page1 w.b0.toNat = some (.registers g)) :
    (¬LikeCodes w.b1 → decode w = .undefinedRegisterCode w.b1) ∧
    (LikeCodes w.b1 → ∃ r1 r2, decode w = .instr (g r1 r2) 2 ∧
      (xregCode r1).toNat = w.b1.toNat / 16 ∧ (xregCode r2).toNat = w.b1.toNat % 16) := by
  have hnone := decodeRegisters_eq_none_iff w.b1
  rw [decode_of_registers hf]
  cases hd : decodeRegisters w.b1 with
  | none => exact ⟨fun _ => rfl, fun h => absurd h (hnone.mp hd)⟩
  | some p =>
    refine ⟨fun h => ?_, fun _ => ⟨p.1, p.2, rfl, xregCode_of_decodeRegisters hd⟩⟩
    exact absurd (hd.symm.trans (hnone.mpr h)) (Option.some_ne_none p)

/-- Settles O6. -/
theorem undefinedRegisterCodes : Obligations.UndefinedRegisterCodes := by
  intro w hw hi lo legal
  rcases hw with hw | hw
  · simp only [if_pos hw]
    exact decode_registers_cases (by rw [hw]; rfl)
  · simp only [if_neg (show ¬w.b0.toNat = 0x1E by omega)]
    exact decode_registers_cases (by rw [hw]; rfl)

end Sys2Proof

namespace Sys2Proof.Machine

/-! ## Effective addresses -/

/-- A signed offset is added modulo 2^16 as the number it stands for (30_encoding.md R103). -/
theorem add_offset_toNat (p n : Word) : ((p + n).toNat : Int) = (p.toNat + n.toInt) % 65536 := by
  rw [BitVec.toInt_eq_toNat_cond, BitVec.toNat_add]
  split <;> omega

/-- So is a shorter one, sign-extended (30_encoding.md R100, R102, R104, R106). -/
theorem add_signExtend_toNat {w : Nat} (p : Word) (n : BitVec w) (hw : w ≤ 16) :
    ((p + n.signExtend 16).toNat : Int) = (p.toNat + n.toInt) % 65536 := by
  rw [add_offset_toNat, BitVec.toInt_signExtend_of_le hw]

theorem add_toNat_emod (p q : Word) : ((p + q).toNat : Int) = (p.toNat + q.toNat) % 65536 := by
  rw [BitVec.toNat_add]; omega

theorem sub_toNat_emod (p q : Word) : ((p - q).toNat : Int) = (p.toNat - q.toNat) % 65536 := by
  rw [BitVec.toNat_sub]; omega

theorem toNat_emod (v : Word) : (v.toNat : Int) = v.toNat % 65536 := by omega

theorem State.d_toNat (s : State) : (s.d.toNat : Int) = s.a.toNat * 256 + s.b.toNat := by
  rw [State.d, word_toNat]; omega

theorem State.idxStep_readByte (s : State) (ix : Idx) (a : Word) : (s.idxStep ix).readByte a = s.readByte a :=
  congrArg (Bus.read · a) (s.idxStep_bus ix)

/-- A mode that is not indirect makes no access. -/
theorem State.afterIdx_of_not_indirect {s : State} {ix : Idx} (h : idxIndirect ix = false) :
    s.idxEA ix = s.idxAddr ix ∧ Makes s (s.afterIdx ix) [] := by
  have run := s.afterIdx_run ix
  rw [h] at run
  exact ⟨if_neg (by simp [h]), run.makes⟩

/-- An indirect mode reads the address, high byte first, where memory still holds what it held before the step
(30_encoding.md R107, R108). -/
theorem State.afterIdx_of_indirect {s : State} {ix : Idx} (h : idxIndirect ix = true) :
    ∃ hi lo, s.idxEA ix = word hi lo ∧ Reads s (s.idxAddr ix) [hi, lo] ∧
      Makes s (s.afterIdx ix) [⟨.pointer, s.idxAddr ix + 1, lo, false⟩, ⟨.pointer, s.idxAddr ix, hi, true⟩] := by
  have run := s.afterIdx_run ix
  rw [if_pos h] at run
  have reads := Reads.word (s.idxStep ix) .pointer true (s.idxAddr ix)
  have hea : s.idxEA ix = (s.idxStep ix).readWord .pointer (s.idxAddr ix) := if_pos h
  rw [State.idxStep_readByte] at reads
  rw [State.readWord, State.idxStep_readByte] at hea
  exact ⟨_, _, hea, Reads.of_run (State.Run.refl (s.idxStep_bus ix)) reads, run.makes⟩

theorem State.afterIdx_reg (s : State) (ix : Idx) (q : Reg) : (s.afterIdx ix).reg q = (s.idxStep ix).reg q := by
  unfold State.afterIdx
  split
  · cases q <;> rfl
  · rfl

/-- An indexed operand keeps all but what its step writes. -/
theorem State.afterIdx_keeps {s : State} {ix : Idx} {rs : List Reg} (h : KeepsRegs s (s.idxStep ix) rs) :
    Keeps s (s.afterIdx ix) rs [] :=
  ⟨fun q hq => (s.afterIdx_reg ix q).trans (h q hq), KeepsFlags.of_cc (s.afterIdx_cc ix) [], by simp [KeepsControl],
    by simp [KeepsPlatform]⟩

theorem State.reg_ptrReg (s : State) (r : Ptr) : s.reg (ptrReg r) = s.ptr r := by cases r <;> rfl

theorem State.setPtr_ptr (s : State) (r : Ptr) (v : Word) : (s.setPtr r v).ptr r = v := by cases r <;> rfl

/-- A mode without a step keeps everything. -/
theorem State.afterIdx_unstepped {s : State} {ix : Idx} (h : s.idxStep ix = s) : Keeps s (s.afterIdx ix) [] [] :=
  State.afterIdx_keeps (by rw [h]; exact KeepsRegs.refl s [])

/-- A mode with a step writes its pointer register and keeps the rest (30_encoding.md R105). -/
theorem State.afterIdx_stepped {s : State} {ix : Idx} {r : Ptr} {v : Word} (h : s.idxStep ix = s.setPtr r v) :
    (s.afterIdx ix).ptr r = v ∧ Keeps s (s.afterIdx ix) [ptrReg r] [] := by
  refine ⟨?_, State.afterIdx_keeps (by rw [h]; exact s.setPtr_keepsRegs r v)⟩
  rw [← State.reg_ptrReg, State.afterIdx_reg, h, State.reg_ptrReg, State.setPtr_ptr]

theorem State.didRead_keeps (s : State) (k : AccessKind) (busy : Bool) (a : Word) : Keeps s (s.didRead k busy a) [] [] :=
  ⟨.of_fields rfl rfl rfl rfl rfl rfl rfl rfl [], .of_cc rfl [], by simp [KeepsControl], by simp [KeepsPlatform]⟩

/-- Settles O22: the address before indirection is the base. -/
theorem effectiveAddresses : Obligations.EffectiveAddresses := by
  intro s
  refine ⟨fun d => ⟨word_toNat s.dp d, rfl⟩, fun a => ⟨rfl, rfl⟩, fun ix => ⟨s.idxAddr ix, ?_, State.afterIdx_of_not_indirect,
    State.afterIdx_of_indirect, .afterIdx s ix, ?_⟩, fun m => ⟨rfl, rfl⟩, fun o => ⟨.single (s.ea o),
    (s.after8_mem_run o).makes, (s.afterEA o).didRead_keeps .load false (s.ea o), .after8 s (.mem o)⟩⟩
  · cases ix with
    | off5 r n | off8 r i n | pcr8 i n => exact add_signExtend_toNat _ n (by decide)
    | accA r i => exact add_signExtend_toNat _ s.a (by decide)
    | accB r i => exact add_signExtend_toNat _ s.b (by decide)
    | off16 r i n | pcr16 i n => exact add_offset_toNat _ n
    | accD r i => exact s.d_toNat ▸ add_toNat_emod (s.ptr r) s.d
    | dec1 r | dec2 r i => exact sub_toNat_emod _ _
    | zero r i | inc1 r | inc2 r i | extInd a => exact toNat_emod _
  · cases ix with
    | inc1 r | inc2 r i | dec1 r | dec2 r i => exact State.afterIdx_stepped rfl
    | _ => exact State.afterIdx_unstepped rfl

/-! ## The 16-bit compares -/

theorem encode_cmp16Form (r : Reg16) (o : Src16) : encode (cmp16Form r o) = wideBytes (cmp16Opcode r) o := by
  rcases o with m | (d | a | ix) <;> cases r <;> rfl

theorem exec_cmp16Form (r : Reg16) (o : Src16) (s : State) : exec (cmp16Form r o) s = wideTest aluSub16 r o s := by
  rcases o with m | (d | a | ix) <;> cases r <;> rfl

theorem sub16_r (a m : Word) : (sub16 a m).r = a - m := by
  apply BitVec.eq_of_toNat_eq
  simp only [sub16, BitVec.toNat_ofInt, BitVec.toNat_sub]
  omega

theorem sub16_c (a m : Word) : (sub16 a m).c = decide (a.toNat < m.toNat) := by
  simp only [sub16, decide_eq_decide]; omega

theorem toInt_range (v : Word) : -32768 ≤ v.toInt ∧ v.toInt ≤ 32767 := ⟨v.le_toInt, Int.le_of_lt_add_one v.toInt_lt⟩

/-- The difference of two words as signed numbers: exact, or off by 2^16 if it overflows. -/
theorem sub_toInt_cases (a m : Word) :
    (a - m).toInt = a.toInt - m.toInt ∨
    (a.toInt - m.toInt < -32768 ∧ (a - m).toInt = a.toInt - m.toInt + 65536) ∨
    (32767 < a.toInt - m.toInt ∧ (a - m).toInt = a.toInt - m.toInt - 65536) := by
  have := a.isLt
  have := m.isLt
  simp only [BitVec.toInt_eq_toNat_cond, BitVec.toNat_sub]
  split <;> split <;> split <;> omega

/-- The sign of a difference is the wrong one exactly if it overflows. -/
theorem msb_sub_xor (a m : Word) :
    ((a - m).msb ^^ decide (a.toInt - m.toInt < -32768 ∨ 32767 < a.toInt - m.toInt)) = decide (a.toInt < m.toInt) := by
  have ha := toInt_range a
  have hm := toInt_range m
  have hr := toInt_range (a - m)
  have hd := sub_toInt_cases a m
  rw [BitVec.msb_eq_toInt, Bool.eq_iff_iff, Bool.xor_iff_ne, ne_eq, decide_eq_decide, decide_eq_true_eq]
  omega

theorem sub16_v (a m : Word) :
    (sub16 a m).v = decide (a.toInt - m.toInt < -32768 ∨ 32767 < a.toInt - m.toInt) := by
  have ha := toInt_range a
  have hm := toInt_range m
  have hr := toInt_range (a - m)
  have hd := sub_toInt_cases a m
  have hv : (sub16 a m).v = (a.msb != m.msb && (a - m).msb != a.msb) := by rw [← sub16_r]; rfl
  rw [hv, Bool.eq_iff_iff]
  simp only [BitVec.msb_eq_toInt, Bool.and_eq_true, bne_iff_ne, ne_eq, decide_eq_decide, decide_eq_true_eq]
  omega

/-- Settles O46. -/
theorem compare16Effect : Obligations.Compare16Effect := by
  intro r o s a m
  obtain ⟨t, ht, hcc, hregs, hcontrol, hplatform, hmem, hbus⟩ := wideTest_spec aluSub16 r o s
  have hflag (k : Flag) : t.flag k = getFlag (aluSub16 a m s.cc).cc k := State.flag_of_cc hcc k
  have hn : t.flag .n = (a - m).msb := by simp [hflag, aluSub16, sub16_r]
  have hz : t.flag .z = decide (a - m = 0) := by simp [hflag, aluSub16, sub16_r, beq_eq_decide]
  have hv : t.flag .v = decide (a.toInt - m.toInt < -32768 ∨ 32767 < a.toInt - m.toInt) := by
    rw [hflag, ← sub16_v]; simp [aluSub16]
  have hc : t.flag .c = decide (a.toNat < m.toNat) := by rw [hflag, ← sub16_c]; simp [aluSub16]
  refine ⟨encode_cmp16Form r o, t, (exec_cmp16Form r o s).trans ht, ⟨hn, hz⟩, hv, hc, ?_, ?_,
    ⟨hregs, fun k hk => ?_, hcontrol, hplatform⟩, hmem, .of_bus hbus⟩
  · rw [hz, decide_eq_decide]; exact sub_eq_zero
  · rw [hn, hv, msb_sub_xor]
  · simp only [List.mem_cons, List.not_mem_nil, or_false, not_or] at hk
    simp [hflag, hk, aluSub16, State.flag_def]

/-! ## The 16-bit loads -/

theorem encode_ld16Form (r : Reg16) (o : Src16) : encode (ld16Form r o) = wideBytes (ld16Opcode r) o := by
  rcases o with m | (d | a | ix) <;> cases r <;> rfl

theorem exec_ld16Form (r : Reg16) (o : Src16) (s : State) : exec (ld16Form r o) s = wideOp aluLd16 r o s := by
  rcases o with m | (d | a | ix) <;> cases r <;> rfl

/-- Settles O47. -/
theorem load16Effect : Obligations.Load16Effect := by
  intro r o s
  obtain ⟨t, ht, hr, hcc, hregs, hcontrol, ⟨hplatform, hinputs, htick⟩, hmem, hbus⟩ := wideOp_spec aluLd16 r o s
  have hflag (k : Flag) : t.flag k = getFlag (logicFlags16 (s.operand16 o) s.cc) k := State.flag_of_cc hcc k
  refine ⟨encode_ld16Form r o, t, (exec_ld16Form r o s).trans ht, hr, ⟨by simp [hflag], by simp [hflag, beq_eq_decide]⟩,
    by simp [hflag], hregs, fun k hk => ?_, hcontrol, ?_, hmem, .of_bus hbus⟩
  · simp only [List.mem_cons, List.not_mem_nil, or_false, not_or] at hk
    simp [hflag, hk, State.flag_def]
  · simp [KeepsPlatform, hplatform, hinputs, htick]

/-! ## Jumps -/

theorem exec_jmpForm (o : Mem) (s : State) : exec (jmpForm o) s = jump o s := by cases o <;> rfl

theorem encode_jsrForm (o : Mem) : encode (jsrForm o) = (0x8D + o.column) :: o.bytes := by cases o <;> rfl

theorem exec_jsrForm (o : Mem) (s : State) : exec (jsrForm o) s = jumpToSubroutine o s := by cases o <;> rfl

/-- Settles O55, by the laws of the three operations. -/
theorem jumpEffect : Obligations.JumpEffect := by
  intro o s mid
  obtain ⟨t, ht, hpc, hkeeps, hmem, hbus⟩ := jump_spec o s
  obtain ⟨u, hu, hupc, husp, hpushed, hukeeps⟩ := jumpToSubroutine_spec o s
  obtain ⟨v, hv, hvpc, hvsp, ⟨hrun, hreads⟩, hvkeeps⟩ := execRts_spec s
  exact ⟨⟨by cases o <;> rfl, t, (exec_jmpForm o s).trans ht, hpc, hkeeps, hmem, .of_bus hbus⟩,
    ⟨encode_jsrForm o, u, (exec_jsrForm o s).trans hu, hupc, husp, hpushed.stores (by simp [wordBytes]), hpushed.makes,
      hukeeps⟩,
    ⟨rfl, v, _, _, hv, hvpc, hreads, hrun.makes, hvsp, hvkeeps, hrun.keepsMemory⟩⟩

end Sys2Proof.Machine

/-! # Proofs about the 8-bit accumulator and memory instructions (40_8bit_accumulator_memory.md): sums and differences, the
logical operations, loads and stores; DAA and MUL -/

namespace Sys2Proof.Machine

/-! ## The rows of the opcode map -/

/-- `form` gives the instructions of row `n` of the opcode map, and they mean `op`. -/
structure AccRow (form : Acc → Src8 → Instr) (n : Byte) (op : Acc → Src8 → State → Result) : Prop where
  encodes : ∀ r o, encode (form r o) = accBytes r n o
  means : ∀ r o s, exec (form r o) s = op r o s

/-- The four modes of a row; `rfl` holds each of them to the opcode map and to the operation. -/
theorem AccRow.of_modes {form : Acc → Src8 → Instr} {n : Byte} {op : Acc → Src8 → State → Result}
    (himm : ∀ r m, encode (form r (.imm m)) = accBytes r n (.imm m) ∧ exec (form r (.imm m)) = op r (.imm m) := by
      intro r _; cases r <;> exact ⟨rfl, rfl⟩)
    (hdir : ∀ r d, encode (form r (.mem (.dir d))) = accBytes r n (.mem (.dir d)) ∧
      exec (form r (.mem (.dir d))) = op r (.mem (.dir d)) := by intro r _; cases r <;> exact ⟨rfl, rfl⟩)
    (hidx : ∀ r ix, encode (form r (.mem (.idx ix))) = accBytes r n (.mem (.idx ix)) ∧
      exec (form r (.mem (.idx ix))) = op r (.mem (.idx ix)) := by intro r _; cases r <;> exact ⟨rfl, rfl⟩)
    (hext : ∀ r a, encode (form r (.mem (.ext a))) = accBytes r n (.mem (.ext a)) ∧
      exec (form r (.mem (.ext a))) = op r (.mem (.ext a)) := by intro r _; cases r <;> exact ⟨rfl, rfl⟩) :
    AccRow form n op := by
  have row (r : Acc) (o : Src8) : encode (form r o) = accBytes r n o ∧ exec (form r o) = op r o :=
    match o with
    | .imm m => himm r m
    | .mem (.dir d) => hdir r d
    | .mem (.idx ix) => hidx r ix
    | .mem (.ext a) => hext r a
  exact ⟨fun r o => (row r o).1, fun r o s => congrFun (row r o).2 s⟩

theorem subForm_row : AccRow subForm 0x0 (accOp aluSub) := .of_modes

theorem cmpForm_row : AccRow cmpForm 0x1 (accTest aluSub) := .of_modes

theorem sbcForm_row : AccRow sbcForm 0x2 (accOp aluSbc) := .of_modes

theorem andForm_row : AccRow andForm 0x4 (accOp aluAnd) := .of_modes

theorem bitForm_row : AccRow bitForm 0x5 (accTest aluAnd) := .of_modes

theorem ldForm_row : AccRow ldForm 0x6 (accOp aluLd) := .of_modes

theorem eorForm_row : AccRow eorForm 0x8 (accOp aluEor) := .of_modes

theorem adcForm_row : AccRow adcForm 0x9 (accOp aluAdc) := .of_modes

theorem orForm_row : AccRow orForm 0xA (accOp aluOr) := .of_modes

theorem addForm_row : AccRow addForm 0xB (accOp aluAdd) := .of_modes

/-- ADD, or ADC with the carry in. -/
def aluSum (withCarry : Bool) (a m cc : Byte) (_hu : Bool) : Out8 := sumOut (add8 a m (withCarry && getFlag cc .c)) cc

/-- SUB, or SBC with the borrow in. -/
def aluDiff (withBorrow : Bool) (a m cc : Byte) (hu : Bool) : Out8 :=
  diffOut (sub8 a m (withBorrow && getFlag cc .c)) cc hu

theorem sumForm_row (withCarry : Bool) :
    AccRow (fun r o => if withCarry then adcForm r o else addForm r o) (if withCarry then 0x9 else 0xB)
      (accOp (aluSum withCarry)) :=
  match withCarry with
  | false => addForm_row
  | true => adcForm_row

theorem diffForm_row (withBorrow : Bool) :
    AccRow (fun r o => if withBorrow then sbcForm r o else subForm r o) (if withBorrow then 0x2 else 0x0)
      (accOp (aluDiff withBorrow)) :=
  match withBorrow with
  | false => subForm_row
  | true => sbcForm_row

/-! ## The effect of a row, in terms of its computation -/

theorem WritesFlags.keepsFlags_after8 {fs : List Flag} {s t : State} {o : Src8} (h : WritesFlags fs s.cc t.cc) :
    KeepsFlags (s.after8 o) t fs := fun k hk =>
  (h k hk).trans (State.flag_congr (s.after8_cc o) k).symm

/-- What one computation of an accumulator and an operand leaves: `v` in the accumulator, the flags and N and Z of the result
`out`, and all else as it was but the registers `rs` and the flags `fs`. -/
structure AccEffect (r : Acc) (o : Src8) (s t : State) (out : Out8) (v : Byte) (rs : List Reg) (fs : List Flag) : Prop where
  acc : t.acc r = v
  flag : ∀ k, t.flag k = getFlag out.cc k
  nz : NZ8 t out.r
  keeps : Keeps (s.after8 o) t rs fs
  memory : KeepsMemory s t
  makes : Makes (s.after8 o) t []

/-- An instruction that writes its accumulator. -/
theorem AccRow.effect {form : Acc → Src8 → Instr} {n : Byte} {alu : Byte → Byte → Byte → Bool → Out8} {fs : List Flag}
    (row : AccRow form n (accOp alu)) (law : ∀ a, FlagLaw (alu a) fs) (r : Acc) (o : Src8) (s : State) :
    let out := alu (s.acc r) (s.operand8 o) s.cc s.undefinedH
    encode (form r o) = accBytes r n o ∧
      ∃ t, exec (form r o) s = .next t ∧ AccEffect r o s t out out.r [r.reg] fs := by
  obtain ⟨t, ht, hr, hcc, hregs, hcontrol, hplatform, hmem, hbus⟩ := accOp_spec alu r o s
  have hfs : WritesFlags fs s.cc t.cc := hcc ▸ (law _).keeps _ _ _
  exact ⟨row.encodes r o, t, (row.means r o s).trans ht, hr, State.flag_of_cc hcc, (law _).nz8 hcc,
    ⟨hregs, hfs.keepsFlags_after8, hcontrol, hplatform⟩, hmem, .of_bus hbus⟩

/-- An instruction that discards its result. -/
theorem AccRow.test_effect {form : Acc → Src8 → Instr} {n : Byte} {alu : Byte → Byte → Byte → Bool → Out8} {fs : List Flag}
    (row : AccRow form n (accTest alu)) (law : ∀ a, FlagLaw (alu a) fs) (r : Acc) (o : Src8) (s : State) :
    encode (form r o) = accBytes r n o ∧
      ∃ t, exec (form r o) s = .next t ∧
        AccEffect r o s t (alu (s.acc r) (s.operand8 o) s.cc s.undefinedH) (s.acc r) [] fs := by
  obtain ⟨t, ht, hr, hcc, hregs, hcontrol, hplatform, hmem, hbus⟩ := accTest_spec alu r o s
  have hfs : WritesFlags fs s.cc t.cc := hcc ▸ (law _).keeps _ _ _
  exact ⟨row.encodes r o, t, (row.means r o s).trans ht, hr, State.flag_of_cc hcc, (law _).nz8 hcc,
    ⟨hregs, hfs.keepsFlags_after8, hcontrol, hplatform⟩, hmem, .of_bus hbus⟩

/-! ## The flags written -/

theorem writesFlags_sumOut (t : Sum8) (cc : Byte) : WritesFlags [.h, .n, .z, .v, .c] cc (sumOut t cc).cc := by
  intro k hk; cases k <;> simp_all

theorem writesFlags_diffOut (t : Diff8) (cc : Byte) (hu : Bool) :
    WritesFlags [.h, .n, .z, .v, .c] cc (diffOut t cc hu).cc := by
  intro k hk; cases k <;> simp_all

theorem writesFlags_logicFlags8 (r cc : Byte) : WritesFlags [.n, .z, .v] cc (logicFlags8 r cc) := by
  intro k hk; cases k <;> simp_all

theorem aluSum_flagLaw (withCarry : Bool) (a : Byte) : FlagLaw (aluSum withCarry a) [.h, .n, .z, .v, .c] where
  n := by simp [aluSum]
  z := by simp [aluSum]
  keeps _ _ _ := writesFlags_sumOut _ _

theorem aluDiff_flagLaw (withBorrow : Bool) (a : Byte) : FlagLaw (aluDiff withBorrow a) [.h, .n, .z, .v, .c] where
  n := by simp [aluDiff]
  z := by simp [aluDiff]
  keeps _ _ _ := writesFlags_diffOut _ _ _

theorem aluSub_flagLaw (a : Byte) : FlagLaw (aluSub a) [.h, .n, .z, .v, .c] := aluDiff_flagLaw false a

/-- A computation that leaves the flags of its result as a load does. -/
theorem flagLaw_of_logic {alu : Byte → Byte → Bool → Out8} (h : ∀ m cc hu, (alu m cc hu).cc = logicFlags8 (alu m cc hu).r cc) :
    FlagLaw alu [.n, .z, .v] where
  n m cc hu := by simp [h m cc hu]
  z m cc hu := by simp [h m cc hu]
  keeps m cc hu := h m cc hu ▸ writesFlags_logicFlags8 _ cc

/-! ## Sums and differences -/

theorem byte_toInt_range (v : Byte) : -128 ≤ v.toInt ∧ v.toInt ≤ 127 := ⟨v.le_toInt, Int.le_of_lt_add_one v.toInt_lt⟩

theorem add8_toNat (a m : Byte) (c : Bool) : (add8 a m c).r.toNat = (a.toNat + m.toNat + c.toNat) % 256 :=
  BitVec.toNat_ofNat _ _

theorem sub8_toNat (a m : Byte) (c : Bool) :
    ((sub8 a m c).r.toNat : Int) = (a.toNat - m.toNat - c.toNat : Int) % 256 := by
  simp only [sub8, BitVec.toNat_ofInt]
  omega

theorem sub8_r (a m : Byte) : (sub8 a m false).r = a - m := by
  apply BitVec.eq_of_toNat_eq
  have := sub8_toNat a m false
  simp only [BitVec.toNat_sub, Bool.toNat_false] at *
  omega

theorem sub8_c (a m : Byte) (c : Bool) : (sub8 a m c).c = decide (a.toNat < m.toNat + c.toNat) := by
  simp only [sub8, decide_eq_decide]; omega

/-- The sum as a signed number. -/
theorem add8_toInt_cases (a m : Byte) (c : Bool) :
    (add8 a m c).r.toInt = a.toInt + m.toInt + c.toNat ∨
    (a.toInt + m.toInt + c.toNat < -128 ∧ (add8 a m c).r.toInt = a.toInt + m.toInt + c.toNat + 256) ∨
    (127 < a.toInt + m.toInt + c.toNat ∧ (add8 a m c).r.toInt = a.toInt + m.toInt + c.toNat - 256) := by
  have := a.isLt
  have := m.isLt
  have := Bool.toNat_lt c
  simp only [BitVec.toInt_eq_toNat_cond, add8_toNat]
  split <;> split <;> split <;> omega

/-- The difference as a signed number. -/
theorem sub8_toInt_cases (a m : Byte) (c : Bool) :
    (sub8 a m c).r.toInt = a.toInt - m.toInt - c.toNat ∨
    (a.toInt - m.toInt - c.toNat < -128 ∧ (sub8 a m c).r.toInt = a.toInt - m.toInt - c.toNat + 256) ∨
    (127 < a.toInt - m.toInt - c.toNat ∧ (sub8 a m c).r.toInt = a.toInt - m.toInt - c.toNat - 256) := by
  have := a.isLt
  have := m.isLt
  have := Bool.toNat_lt c
  have := sub8_toNat a m c
  simp only [BitVec.toInt_eq_toNat_cond]
  split <;> split <;> split <;> omega

/-- V after a sum is the signed overflow (10_state.md R37). -/
theorem add8_v (a m : Byte) (c : Bool) :
    (add8 a m c).v = decide (a.toInt + m.toInt + c.toNat < -128 ∨ 127 < a.toInt + m.toInt + c.toNat) := by
  have ha := byte_toInt_range a
  have hm := byte_toInt_range m
  have hc := Bool.toNat_lt c
  have hr := byte_toInt_range (add8 a m c).r
  have hs := add8_toInt_cases a m c
  have hv : (add8 a m c).v = (a.msb == m.msb && (add8 a m c).r.msb != a.msb) := rfl
  rw [hv, Bool.eq_iff_iff]
  simp only [BitVec.msb_eq_toInt, Bool.and_eq_true, bne_iff_ne, beq_iff_eq, ne_eq, decide_eq_decide, decide_eq_true_eq]
  omega

/-- V after a difference is the signed overflow (10_state.md R38). -/
theorem sub8_v (a m : Byte) (c : Bool) :
    (sub8 a m c).v = decide (a.toInt - m.toInt - c.toNat < -128 ∨ 127 < a.toInt - m.toInt - c.toNat) := by
  have ha := byte_toInt_range a
  have hm := byte_toInt_range m
  have hc := Bool.toNat_lt c
  have hr := byte_toInt_range (sub8 a m c).r
  have hd := sub8_toInt_cases a m c
  have hv : (sub8 a m c).v = (a.msb != m.msb && (sub8 a m c).r.msb != a.msb) := rfl
  rw [hv, Bool.eq_iff_iff]
  simp only [BitVec.msb_eq_toInt, Bool.and_eq_true, bne_iff_ne, ne_eq, decide_eq_decide, decide_eq_true_eq]
  omega

/-- N ⊕ V after a difference is the signed order: the sign is the wrong one exactly if it overflows. -/
theorem sub8_msb_xor_v (a m : Byte) : ((sub8 a m false).r.msb ^^ (sub8 a m false).v) = decide (a.toInt < m.toInt) := by
  have ha := byte_toInt_range a
  have hm := byte_toInt_range m
  have hr := byte_toInt_range (sub8 a m false).r
  have hd := sub8_toInt_cases a m false
  rw [sub8_v, BitVec.msb_eq_toInt, Bool.eq_iff_iff, Bool.xor_iff_ne, ne_eq, decide_eq_decide, decide_eq_true_eq]
  simp only [Bool.toNat_false] at *
  omega

/-- The carry or borrow in, as the statements write it. -/
theorem carryIn_eq (b : Bool) (s : State) : (if (b && s.flag .c) = true then 1 else 0) = (b && getFlag s.cc .c).toNat :=
  (ite_eq_mul_toNat _ 1).trans (Nat.one_mul _)

/-- Settles O32. -/
theorem addAndAdcEffect : Obligations.AddAndAdcEffect := by
  intro withCarry r o s i a m c
  obtain ⟨henc, t, ht, hacc, hflag, hnz, hkeeps, hmem, hmakes⟩ :=
    (sumForm_row withCarry).effect (aluSum_flagLaw withCarry) r o s
  have hc : c = (withCarry && getFlag s.cc .c).toNat := carryIn_eq withCarry s
  refine ⟨henc, t, ht, ?_, ?_, hacc ▸ hnz, ?_, ?_, hkeeps, hmem, hmakes⟩
  · rw [hacc, hc]; exact add8_toNat a m _
  · rw [hflag, hc]; simp [aluSum, add8, a, m]
  · rw [hflag, hc, ← add8_v]; simp [aluSum, a, m]
  · rw [hflag, hc]; simp [aluSum, add8, a, m]

/-- Settles O33. -/
theorem subAndSbcEffect : Obligations.SubAndSbcEffect := by
  intro withBorrow r o s i a m c
  obtain ⟨henc, t, ht, hacc, hflag, hnz, hkeeps, hmem, hmakes⟩ :=
    (diffForm_row withBorrow).effect (aluDiff_flagLaw withBorrow) r o s
  have hc : c = (withBorrow && getFlag s.cc .c).toNat := carryIn_eq withBorrow s
  refine ⟨henc, t, ht, ?_, hacc ▸ hnz, ?_, ?_, hkeeps, hmem, hmakes⟩
  · rw [hacc, hc]; exact sub8_toNat a m _
  · rw [hflag, hc, ← sub8_v]; simp [aluDiff, a, m]
  · rw [hflag, hc, ← sub8_c]; simp [aluDiff, a, m]

/-- Settles O34. -/
theorem compareEffect : Obligations.CompareEffect := by
  intro r o s a m
  obtain ⟨henc, t, ht, _, hflag, hnz, hkeeps, hmem, hmakes⟩ := cmpForm_row.test_effect aluSub_flagLaw r o s
  have hnz : NZ8 t (a - m) := sub8_r a m ▸ hnz
  have hv : t.flag .v = (sub8 a m false).v := by simp [hflag, aluSub, a, m]
  have hc : t.flag .c = (sub8 a m false).c := by simp [hflag, aluSub, a, m]
  refine ⟨henc, t, ht, hnz, ?_, hc.trans (sub8_c a m false), ?_, ?_, hkeeps, hmem, hmakes⟩
  · rw [hv, sub8_v]; simp
  · rw [hnz.2, decide_eq_decide]; exact sub_eq_zero
  · rw [hnz.1, hv, ← sub8_r, sub8_msb_xor_v]

/-! ## Logical operations, loads and stores -/

/-- An accumulator operation with the flags of a load. -/
theorem AccRow.logic_effect {form : Acc → Src8 → Instr} {n : Byte} {alu : Byte → Byte → Byte → Bool → Out8}
    (row : AccRow form n (accOp alu)) (h : ∀ a m cc hu, (alu a m cc hu).cc = logicFlags8 (alu a m cc hu).r cc)
    (r : Acc) (o : Src8) (s : State) :
    let v := (alu (s.acc r) (s.operand8 o) s.cc s.undefinedH).r
    encode (form r o) = accBytes r n o ∧
      ∃ t, exec (form r o) s = .next t ∧ t.acc r = v ∧ NZ8 t v ∧ t.flag .v = false ∧
        Keeps (s.after8 o) t [r.reg] [.n, .z, .v] ∧ KeepsMemory s t ∧ Makes (s.after8 o) t [] := by
  obtain ⟨henc, t, ht, hacc, hflag, hnz, hkeeps, hmem, hmakes⟩ := row.effect (fun a => flagLaw_of_logic (h a)) r o s
  exact ⟨henc, t, ht, hacc, hnz, by simp [hflag, h], hkeeps, hmem, hmakes⟩

/-- Settles O35. -/
theorem logicalEffect : Obligations.LogicalEffect := by
  intro r o s a m effect
  refine ⟨?_, ?_, ?_, ?_⟩
  · obtain ⟨henc, heff⟩ := andForm_row.logic_effect (fun _ _ _ _ => rfl) r o s
    exact ⟨henc, fun _ _ => BitVec.getLsbD_and, heff⟩
  · obtain ⟨henc, heff⟩ := orForm_row.logic_effect (fun _ _ _ _ => rfl) r o s
    exact ⟨henc, fun _ _ => BitVec.getLsbD_or, heff⟩
  · obtain ⟨henc, heff⟩ := eorForm_row.logic_effect (fun _ _ _ _ => rfl) r o s
    exact ⟨henc, fun _ _ => BitVec.getLsbD_xor, heff⟩
  · obtain ⟨henc, t, ht, hacc, hflag, hnz, hkeeps, hmem, hmakes⟩ :=
      bitForm_row.test_effect (fun _ => flagLaw_of_logic fun _ _ _ => rfl) r o s
    exact ⟨henc, fun _ _ => BitVec.getLsbD_and, t, ht, hacc, hnz, by simp [hflag, aluAnd], hkeeps, hmem, hmakes⟩

theorem encode_stForm (r : Acc) (o : Mem) : encode (stForm r o) = (r.base + o.column + 0x7) :: o.bytes := by
  cases r <;> cases o <;> rfl

theorem exec_stForm (r : Acc) (o : Mem) (s : State) : exec (stForm r o) s = accStore r o s := by
  cases r <;> cases o <;> rfl

/-- Settles O36. -/
theorem loadAndStoreEffect : Obligations.LoadAndStoreEffect := by
  refine ⟨ldForm_row.logic_effect fun _ _ _ _ => rfl, fun r o s => ?_⟩
  obtain ⟨t, ht, hcc, hregs, hcontrol, hplatform, run⟩ := accStore_spec r o s
  have hflag (k : Flag) : t.flag k = getFlag (logicFlags8 (s.acc r) s.cc) k := State.flag_of_cc hcc k
  have hfs : WritesFlags [.n, .z, .v] s.cc t.cc := hcc ▸ writesFlags_logicFlags8 _ _
  exact ⟨encode_stForm r o, t, (exec_stForm r o s).trans ht, ⟨by simp [hflag], by simp [hflag, beq_eq_decide]⟩,
    by simp [hflag], ⟨hregs, hfs.keepsFlags_afterEA, hcontrol, hplatform⟩, run.stores_single, run.makes⟩

/-! ## DAA and MUL -/

theorem aluDaa_flagLaw : FlagLaw aluDaa [.n, .z, .v, .c] where
  n := by simp [aluDaa]
  z := by simp [aluDaa]
  keeps _ _ _ k hk := by cases k <;> simp_all [aluDaa]

/-- Settles O42. -/
theorem daaEffect : Obligations.DaaEffect := by
  intro s lsn msn low high
  have hlow : low = if getFlag s.cc .h || decide (9 < lsn) then 6 else 0 :=
    if_congr (by simp [State.flag_def]) rfl rfl
  have hhigh : high = if getFlag s.cc .c || decide (9 < msn) || (decide (8 < msn) && decide (9 < lsn)) then 6 else 0 :=
    if_congr (by simp [State.flag_def, or_assoc]) rfl rfl
  rw [Nat.add_assoc, Nat.mul_comm 16, hlow, hhigh]
  refine ⟨rfl, _, rfl, BitVec.toNat_ofNat _ _, aluDaa_flagLaw.nz8 rfl, ?_, ⟨s.setAcc_keepsRegs .a _,
    aluDaa_flagLaw.keeps _ _ _, by simp [KeepsControl], by simp [KeepsPlatform]⟩, .refl_of_bus rfl, .of_bus rfl⟩
  simp [aluDaa, State.flag_def, lsn, msn]

theorem aluMul_writesFlags (a b cc : Byte) : WritesFlags [.z, .c] cc (aluMul a b cc).cc := by
  intro k hk; cases k <;> simp_all [aluMul]

/-- Bit 7 of a word is the top bit of its low byte. -/
theorem getLsbD_seven_of_word (v : Word) : v.getLsbD 7 = decide (128 ≤ v.toNat % 256) := by
  rw [← loByte_toNat, ← getLsbD_seven]; simp [loByte]

theorem aluMul_toNat (a b cc : Byte) : (aluMul a b cc).r.toNat = a.toNat * b.toNat := by
  have hlt : a.toNat * b.toNat < 2 ^ 8 * 2 ^ 8 := Nat.mul_lt_mul'' a.isLt b.isLt
  exact (BitVec.toNat_ofNat _ _).trans (Nat.mod_eq_of_lt hlt)

theorem aluMul_z (a b cc : Byte) : getFlag (aluMul a b cc).cc .z = decide (a.toNat * b.toNat = 0) := by
  have hzero : (aluMul a b cc).r = 0 ↔ a.toNat * b.toNat = 0 := aluMul_toNat a b cc ▸ BitVec.toNat_inj.symm
  rw [← decide_eq_decide.mpr hzero, ← beq_eq_decide]
  simp [aluMul]

theorem aluMul_c (a b cc : Byte) : getFlag (aluMul a b cc).cc .c = decide (128 ≤ a.toNat * b.toNat % 256) := by
  rw [← aluMul_toNat a b cc, ← getLsbD_seven_of_word]
  simp [aluMul]

/-- Settles O43. -/
theorem mulEffect : Obligations.MulEffect := by
  intro s
  refine ⟨rfl, _, rfl, ?_, aluMul_z _ _ _, aluMul_c _ _ _, ⟨s.load16_keepsRegs .d _,
    aluMul_writesFlags _ _ _, by simp [KeepsControl], by simp [KeepsPlatform]⟩, .refl_of_bus rfl, .of_bus rfl⟩
  rw [← aluMul_toNat s.a s.b s.cc, ← word_toNat]
  exact congrArg BitVec.toNat (word_hi_lo _)

/-! ## Decimal addition -/

/-- The low digit is corrected exactly if the low digits and the carry in, `p`, make more than nine. -/
theorem lowDigit_corrected_iff {p q : Nat} (hp : p ≤ 19) :
    (15 < p ∨ 9 < (16 * q + p) % 256 % 16) ↔ 9 < p := by omega

/-- The high digit is corrected exactly if the high digits, `q`, and the decimal carry make more than nine. -/
theorem highDigit_corrected_iff {p q : Nat} (hp : p ≤ 19) (hq : q ≤ 18) :
    (255 < 16 * q + p ∨ 9 < (16 * q + p) % 256 / 16 ∨ (8 < (16 * q + p) % 256 / 16 ∧ 9 < (16 * q + p) % 256 % 16)) ↔
      9 < q + if 9 < p then 1 else 0 := by
  split <;> omega

/-- Both digits corrected: a BCD byte, with the carry out of the hundreds, of the number the digits make. -/
theorem corrected_is_decimal {p q low high : Nat} (hp : p ≤ 19) (hq : q ≤ 18) (hlow : low = if 9 < p then 6 else 0)
    (hhigh : high = if 9 < q + (if 9 < p then 1 else 0) then 6 else 0) :
    let total := (16 * q + p) % 256 + 16 * high + low
    (total % 256 / 16 ≤ 9 ∧ total % 256 % 16 ≤ 9) ∧
      10 * (total % 256 / 16) + total % 256 % 16 + (if 255 < total ∨ 255 < 16 * q + p then 100 else 0) = 10 * q + p := by
  subst hlow hhigh
  dsimp only
  by_cases hk : 9 < p
  · by_cases hj : 9 < q + 1 <;> simp only [hk, hj, if_true, if_false] <;> split <;> omega
  · by_cases hj : 9 < q <;> simp only [hk, hj, if_true, if_false, Nat.add_zero] <;> split <;> omega

/-- Settles O31: the two digit sums of the operands, `p` with the carry in and `q`, each corrected by DAA. -/
theorem daaAfterAdditionIsDecimal : Obligations.DaaAfterAdditionIsDecimal := by
  intro withCarry o s bcd value ha hm
  obtain ⟨_, t, ht, hsum, hh, _, _, htc, _⟩ := addAndAdcEffect withCarry .a o s
  obtain ⟨_, u, hu, hua, _, huc, _⟩ := daaEffect t
  let c : Nat := if (withCarry && s.flag .c) = true then 1 else 0
  let p := s.a.toNat % 16 + (s.operand8 o).toNat % 16 + c
  let q := s.a.toNat / 16 + (s.operand8 o).toNat / 16
  have hc1 : c ≤ 1 := ite_le_one (Nat.le_refl 1) (Nat.zero_le 1)
  have hp : p ≤ 19 := Nat.add_le_add (Nat.add_le_add ha.2 hm.2) hc1
  have hq : q ≤ 18 := Nat.add_le_add ha.1 hm.1
  have hexact : s.a.toNat + (s.operand8 o).toNat + c = 16 * q + p := by omega
  have hta : t.a.toNat = (16 * q + p) % 256 := hexact ▸ hsum
  have hth : t.flag .h = true ↔ 15 < p := hh ▸ decide_eq_true_iff
  have htc : t.flag .c = true ↔ 255 < 16 * q + p := hexact ▸ htc ▸ decide_eq_true_iff
  simp only [hta, hth, htc, lowDigit_corrected_iff hp, highDigit_corrected_iff hp hq] at hua huc
  obtain ⟨hbcd, hvalue⟩ := corrected_is_decimal hp hq rfl rfl
  refine ⟨t, u, ht, hu, ?_, ?_⟩
  · simp only [bcd, hua]; exact hbcd
  · simp only [value, hua, huc]; omega

end Sys2Proof.Machine

/-! # Proofs about the 16-bit accumulator instructions (41_16bit_accumulator_memory.md): ADDD and SUBD; SEX, and with it ABX
(42_index_stack_pointer.md) -/

namespace Sys2Proof.Machine

/-! ## ADDD and SUBD -/

theorem encode_adddForm (o : Src16) : encode (adddForm o) = wideBytes ([], 0xC3) o := by
  rcases o with m | (d | a | ix) <;> rfl

theorem exec_adddForm (o : Src16) (s : State) : exec (adddForm o) s = wideOp aluAdd16 .d o s := by
  rcases o with m | (d | a | ix) <;> rfl

theorem encode_subdForm (o : Src16) : encode (subdForm o) = wideBytes ([], 0x83) o := by
  rcases o with m | (d | a | ix) <;> rfl

theorem exec_subdForm (o : Src16) (s : State) : exec (subdForm o) s = wideOp aluSub16 .d o s := by
  rcases o with m | (d | a | ix) <;> rfl

theorem add16_r (a m : Word) : (add16 a m).r = a + m := BitVec.eq_of_toNat_eq (BitVec.toNat_ofNat _ _)

/-- V after a 16-bit sum is the signed overflow (10_state.md R39). -/
theorem add16_v (a m : Word) :
    (add16 a m).v = decide (a.toInt + m.toInt < -32768 ∨ 32767 < a.toInt + m.toInt) := by
  have hv : (add16 a m).v = (a.msb == m.msb && (a + m).msb != a.msb) := by rw [← add16_r]; rfl
  have hoverflow : BitVec.saddOverflow a m = (a.msb == m.msb && (a + m).msb != a.msb) := BitVec.saddOverflow_eq a m
  rw [hv, ← hoverflow, BitVec.saddOverflow, ← Bool.decide_or, decide_eq_decide]
  omega

theorem writesFlags_out16 (t : Res16) (cc : Byte) : WritesFlags [.n, .z, .v, .c] cc (out16 t cc).cc := by
  intro k hk; cases k <;> simp_all

theorem WritesFlags.keepsFlags_after16 {fs : List Flag} {s t : State} {o : Src16} (h : WritesFlags fs s.cc t.cc) :
    KeepsFlags (s.after16 o) t fs := fun k hk =>
  (h k hk).trans (State.flag_congr (s.after16_cc o) k).symm

/-- An arithmetic operation of D and an operand word leaves its result in D, its flags, and all else as it was; D is not
touched by the addressing mode's step. -/
theorem wideOp_d_effect (op : Word → Word → Res16) (o : Src16) (s : State) :
    let res := op s.d (s.operand16 o)
    ∃ t, wideOp (fun d m => out16 (op d m)) .d o s = .next t ∧
      word t.a t.b = res.r ∧ NZ16 t res.r ∧ t.flag .v = res.v ∧ t.flag .c = res.c ∧
      Keeps (s.after16 o) t [.a, .b] [.n, .z, .v, .c] ∧ KeepsMemory s t ∧ Makes (s.after16 o) t [] := by
  intro res
  obtain ⟨t, ht, hr, hcc, hregs, hcontrol, hplatform, hmem, hbus⟩ := wideOp_spec (fun d m => out16 (op d m)) .d o s
  have hd : (s.after16 o).reg16 .d = s.d := s.after16_d o
  rw [hd] at hr hcc
  have hflag (k : Flag) : t.flag k = getFlag (out16 res s.cc).cc k := State.flag_of_cc hcc k
  have hfs : WritesFlags [.n, .z, .v, .c] s.cc t.cc := hcc ▸ writesFlags_out16 res s.cc
  exact ⟨t, ht, hr, ⟨by simp [hflag], by simp [hflag, beq_eq_decide]⟩, by simp [hflag], by simp [hflag],
    ⟨hregs, hfs.keepsFlags_after16, hcontrol, hplatform⟩, hmem, .of_bus hbus⟩

/-- Settles O45, by the effect of the two operations on D and their results as numbers. -/
theorem adddAndSubdEffect : Obligations.AdddAndSubdEffect := by
  intro o s d m
  obtain ⟨t, ht, htd, htnz, htv, htc, htkeeps⟩ := wideOp_d_effect add16 o s
  obtain ⟨u, hu, hud, hunz, huv, huc, hukeeps⟩ := wideOp_d_effect sub16 o s
  refine ⟨⟨encode_adddForm o, t, (exec_adddForm o s).trans ht, ?_, htd ▸ htnz, htv.trans (add16_v d m), htc, htkeeps⟩,
    ⟨encode_subdForm o, u, (exec_subdForm o s).trans hu, ?_, hud ▸ hunz, huv.trans (sub16_v d m),
      huc.trans (sub16_c d m), hukeeps⟩⟩
  · rw [htd, add16_r]; exact BitVec.toNat_add d m
  · rw [hud, sub16_r]; exact sub_toNat_emod d m

/-! ## SEX and ABX -/

theorem sext8_toInt (v : Byte) : (sext8 v).toInt = v.toInt := BitVec.toInt_signExtend_of_le (by decide)

theorem sext8_eq_zero_iff (v : Byte) : sext8 v = 0 ↔ v = 0 := by
  rw [← BitVec.toInt_inj, ← BitVec.toInt_inj, sext8_toInt]; rfl

theorem sext8_msb (v : Byte) : (sext8 v).msb = decide (v.toInt < 0) := by rw [BitVec.msb_eq_toInt, sext8_toInt]

theorem loByte_sext8 (v : Byte) : loByte (sext8 v) = v := by
  apply BitVec.eq_of_getLsbD_eq
  intro i hi
  simp [loByte, sext8, BitVec.getElem_signExtend, hi, hi.trans (by decide : 8 < 16)]

theorem zext8_toNat (v : Byte) : (zext8 v).toNat = v.toNat :=
  BitVec.toNat_setWidth_of_le (by decide)

theorem word_hiByte_sext8 (v : Byte) : word (hiByte (sext8 v)) v = sext8 v := by
  have h := word_hi_lo (sext8 v)
  rwa [loByte_sext8] at h

/-- SEX writes D with a word whose low byte is B, so of the two accumulators it changes A alone. -/
theorem exec_sex (s : State) :
    exec .sex s = .next { s.setAcc .a (hiByte (sext8 s.b)) with cc := (aluSex s.b s.cc).cc } := by
  have hd : s.setD (sext8 s.b) = s.setAcc .a (hiByte (sext8 s.b)) := by rw [State.setD, loByte_sext8]; rfl
  exact hd ▸ rfl

theorem aluSex_writesFlags (b cc : Byte) : WritesFlags [.n, .z] cc (aluSex b cc).cc := by
  intro k hk; cases k <;> simp_all [aluSex]

theorem aluSex_n (b cc : Byte) : getFlag (aluSex b cc).cc .n = decide (b.toInt < 0) := by
  rw [← sext8_msb]; simp [aluSex]

theorem aluSex_z (b cc : Byte) : getFlag (aluSex b cc).cc .z = decide (b = 0) := by
  rw [← decide_eq_decide.mpr (sext8_eq_zero_iff b), ← beq_eq_decide]; simp [aluSex]

/-- Settles O50: SEX is a write of A, ABX a write of X. -/
theorem sexAndAbxEffect : Obligations.SexAndAbxEffect := by
  intro s
  refine ⟨⟨rfl, _, exec_sex s, rfl, ?_, aluSex_n _ _, aluSex_z _ _, ⟨s.setAcc_keepsRegs .a _, aluSex_writesFlags _ _,
    by simp [KeepsControl], by simp [KeepsPlatform]⟩, .refl_of_bus rfl, .of_bus rfl⟩,
    rfl, _, rfl, ?_, ⟨s.setPtr_keepsRegs .x _, .of_cc rfl [], by simp [KeepsControl], by simp [KeepsPlatform]⟩,
    .refl_of_bus rfl, .of_bus rfl⟩
  · exact (congrArg BitVec.toInt (word_hiByte_sext8 s.b)).trans (sext8_toInt s.b)
  · rw [BitVec.toNat_add, zext8_toNat]

end Sys2Proof.Machine

/-! # Proofs about the effective address loads (42_index_stack_pointer.md): LEAX, LEAY, LEAS, LEAU -/

namespace Sys2Proof.Machine

/-- CC after a LEA of `ea`: Z tells whether the address is zero if an index register is loaded; no flag changes if a stack
pointer is (42_index_stack_pointer.md R229 to R232). -/
def leaCc (r : Ptr) (ea : Word) (cc : Byte) : Byte :=
  match r with
  | .x | .y => setFlag .z (ea == 0) cc
  | .u | .s => cc

theorem leaCc_index {r : Ptr} (hr : r = .x ∨ r = .y) (ea : Word) (cc : Byte) : leaCc r ea cc = setFlag .z (ea == 0) cc := by
  rcases hr with rfl | rfl <;> rfl

theorem leaCc_stack {r : Ptr} (hr : r = .s ∨ r = .u) (ea : Word) (cc : Byte) : leaCc r ea cc = cc := by
  rcases hr with rfl | rfl <;> rfl

/-- The four instructions differ by the register loaded and by CC. -/
theorem exec_leaForm_spec (r : Ptr) (ix : Idx) (s : State) :
    ∃ t, exec (leaForm r ix) s = .next t ∧
      t.ptr r = s.idxEA ix ∧ t.cc = leaCc r (s.idxEA ix) s.cc ∧
      KeepsRegs (s.afterIdx ix) t [ptrReg r] ∧ KeepsControl (s.afterIdx ix) t (r == .s) ∧
      KeepsPlatform (s.afterIdx ix) t ∧ KeepsMemory s t ∧ t.bus = (s.afterIdx ix).bus := by
  cases r with
  | x => exact leaIndex_spec .x ix s
  | y => exact leaIndex_spec .y ix s
  | u => exact leaStack_spec .u ix s
  | s => exact leaStack_spec .s ix s

theorem writesFlags_setFlag (k : Flag) (v : Bool) (cc : Byte) : WritesFlags [k] cc (setFlag k v cc) := fun q hq =>
  getFlag_setFlag_other k q v cc (List.mem_singleton.not.mp hq)

/-- Settles O49, by the one law of the four instructions; what remains is CC, by the kind of the register loaded. -/
theorem leaEffect : Obligations.LeaEffect := by
  intro r ix s ea mid
  obtain ⟨t, ht, hptr, hcc, hregs, hcontrol, hplatform, hmem, hbus⟩ := exec_leaForm_spec r ix s
  refine ⟨by cases r <;> rfl, t, ht, hptr, hregs, fun hindex => ?_, fun hstack => ?_, hcontrol, hplatform, hmem,
    .of_bus hbus⟩
  · rw [leaCc_index hindex] at hcc
    have hz : t.flag .z = (ea == 0) := (State.flag_of_cc hcc .z).trans (getFlag_setFlag_same .z _ s.cc)
    have hothers : WritesFlags [.z] s.cc t.cc := hcc ▸ writesFlags_setFlag .z _ s.cc
    exact ⟨hz.trans (beq_eq_decide _ _), hothers.keepsFlags_afterEA⟩
  · rw [leaCc_stack hstack] at hcc
    exact .of_cc (hcc.trans (s.afterIdx_cc ix).symm) []

end Sys2Proof.Machine

/-! # Proofs about the branches (43_branches.md): the sixteen conditions, short and long; BSR and LBSR -/

namespace Sys2Proof.Machine

/-! ## The sixteen instructions of a length are one operation -/

theorem encode_shortBranch (o : Byte) (k : Cond) : encode (shortBranch o k) = [0x20 + k.number, o] := by
  cases k <;> rfl

theorem exec_shortBranch (o : Byte) (k : Cond) (s : State) : exec (shortBranch o k) s = branch k (sext8 o) s := by
  cases k <;> rfl

/-- LBRA has an opcode of its own; the others have the short branch's opcode on page 2. -/
theorem encode_longBranch (w : Word) (k : Cond) :
    encode (longBranch w k) = (if k = .always then [0x16] else [0x10, 0x20 + k.number]) ++ [hiByte w, loByte w] := by
  cases k <;> rfl

theorem exec_longBranch (w : Word) (k : Cond) (s : State) : exec (longBranch w k) s = branch k w s := by
  cases k <;> rfl

/-- `branch_spec` with the target as a number, modulo 2^16, and with what an unchanged bus means for memory and accesses. -/
theorem branch_effect (k : Cond) (d : Word) (s : State) :
    ∃ t, branch k d s = .next t ∧
      (k.Taken s → (t.pc.toNat : Int) = (s.pc.toNat + d.toInt) % 65536) ∧ (¬k.Taken s → t.pc = s.pc) ∧
      Keeps s t [.pc] [] ∧ KeepsMemory s t ∧ Makes s t [] := by
  obtain ⟨t, ht, htaken, huntaken, hkeeps, hbus⟩ := branch_spec k d s
  exact ⟨t, ht, fun h => htaken h ▸ add_offset_toNat s.pc d, huntaken, hkeeps, .refl_of_bus hbus, .of_bus hbus⟩

/-! ## Conditions in pairs -/

/-- The condition that tests the opposite: the other one of an even number and the odd number after it. -/
def Cond.complement : Cond → Cond
  | .always => .never
  | .never => .always
  | .hi => .ls
  | .ls => .hi
  | .cc => .cs
  | .cs => .cc
  | .ne => .eq
  | .eq => .ne
  | .vc => .vs
  | .vs => .vc
  | .pl => .mi
  | .mi => .pl
  | .ge => .lt
  | .lt => .ge
  | .gt => .le
  | .le => .gt

theorem Cond.complement_number {k : Cond} (heven : k.number.toNat % 2 = 0) : k.complement.number = k.number + 1 := by
  cases k with
  | always | hi | cc | ne | vc | pl | ge | gt => rfl
  | never | ls | cs | eq | vs | mi | lt | le => exact absurd heven (by decide)

theorem Cond.holds_complement (k : Cond) (cc : Byte) : k.complement.holds cc = !k.holds cc := by
  cases k <;> simp [Cond.complement, Cond.holds]

theorem Cond.taken_complement_iff (k : Cond) (s : State) : k.complement.Taken s ↔ ¬k.Taken s := by
  rw [← Cond.holds_iff, ← Cond.holds_iff, Cond.holds_complement, Bool.not_eq_true', Bool.not_eq_true]

/-- The conditions in the order of their numbers (43_branches.md R295). -/
def conditionTable : List Cond :=
  [.always, .never, .hi, .ls, .cc, .cs, .ne, .eq, .vc, .vs, .pl, .mi, .ge, .lt, .gt, .le]

theorem conditionTable_number (k : Cond) : conditionTable[k.number.toNat]? = some k := by
  cases k <;> rfl

theorem Cond.number_injective : Function.Injective Cond.number := fun k q h =>
  Option.some.inj (by rw [← conditionTable_number k, ← conditionTable_number q, h])

/-- Settles O53: the operation's law for the two lengths; and an odd condition is the complement of the even one before it
because no two conditions have one number. -/
theorem branchEffect : Obligations.BranchEffect := by
  intro k o w s
  refine ⟨⟨encode_shortBranch o k, ?_⟩, ⟨encode_longBranch w k, ?_⟩, fun q heven hq => ?_⟩
  · rw [exec_shortBranch, ← sext8_toInt]
    exact branch_effect k (sext8 o) s
  · rw [exec_longBranch]
    exact branch_effect k w s
  · have hpair : q = k.complement := Cond.number_injective (hq.trans (Cond.complement_number heven).symm)
    rw [hpair]
    exact k.taken_complement_iff s

/-! ## BSR and LBSR -/

/-- `branchToSubroutine_spec` with the target as a number, modulo 2^16, and the push as what it stores and accesses. -/
theorem branchToSubroutine_effect (d : Word) (s : State) :
    ∃ t, branchToSubroutine d s = .next t ∧ (t.pc.toNat : Int) = (s.pc.toNat + d.toInt) % 65536 ∧ t.sp = s.sp - 2 ∧
      Stores s t (s.sp - 2) (wordBytes s.pc) ∧ Makes s t (accesses .push (s.sp - 2) (wordBytes s.pc)) ∧
      Keeps s t [.pc, .s] [] := by
  obtain ⟨t, ht, hpc, hsp, hpushed, hkeeps⟩ := branchToSubroutine_spec d s
  have hlen : (wordBytes s.pc).length ≤ 65536 := by simp [wordBytes]
  exact ⟨t, ht, hpc ▸ add_offset_toNat s.pc d, hsp, hpushed.stores hlen, hpushed.makes, hkeeps⟩

/-- Settles O54: the two instructions are the operation, BSR with its offset sign-extended. -/
theorem branchToSubroutineEffect : Obligations.BranchToSubroutineEffect := by
  intro o w s
  have hbsr := branchToSubroutine_effect (sext8 o) s
  rw [sext8_toInt] at hbsr
  exact ⟨⟨rfl, hbsr⟩, rfl, branchToSubroutine_effect w s⟩

end Sys2Proof.Machine

/-! # Proofs about the miscellaneous instructions (44_miscellaneous.md): ANDCC and ORCC; SYNC and NOP; CWAI; RTI from the
frame of any interrupt -/

namespace Sys2Proof.Machine

/-! ## ANDCC, ORCC, SYNC, NOP, CWAI -/

/-- A write of CC leaves everything but the flags as it was. -/
theorem State.writeCc_keeps (s : State) (cc : Byte) :
    KeepsRegs s { s with cc := cc } [] ∧ KeepsControl s { s with cc := cc } false ∧ KeepsPlatform s { s with cc := cc } ∧
      KeepsMemory s { s with cc := cc } ∧ Makes s { s with cc := cc } [] :=
  ⟨.of_fields rfl rfl rfl rfl rfl rfl rfl rfl [], ⟨(Bool.or_false _).symm, rfl, rfl⟩, ⟨rfl, rfl, rfl⟩, .refl_of_bus rfl,
    .of_bus rfl⟩

/-- Settles O60: each flag is a bit of CC, so the logic on the byte is the logic on the flag. -/
theorem andccAndOrccEffect : Obligations.AndccAndOrccEffect := fun m s =>
  ⟨⟨rfl, _, rfl, getFlag_and s.cc m, s.writeCc_keeps _⟩, rfl, _, rfl, getFlag_or s.cc m, s.writeCc_keeps _⟩

/-- Settles O59: SYNC writes the run state and nothing else. -/
theorem syncAndNopEffect : Obligations.SyncAndNopEffect := fun _ =>
  ⟨⟨rfl, _, rfl, rfl, .of_fields rfl rfl rfl rfl rfl rfl rfl rfl [], .of_cc rfl [], rfl, rfl, ⟨rfl, rfl, rfl⟩,
    .refl_of_bus rfl, .of_bus rfl⟩, rfl, rfl⟩

/-- Settles O58: what the push of the entire state writes is what it stores and which accesses it makes. -/
theorem cwaiEffect : Obligations.CwaiEffect := by
  intro m s
  obtain ⟨t, ht, hcc, hrun, hsp, hpushed, hkeeps⟩ := execCwai_spec m s
  exact ⟨rfl, t, ht, hcc, hrun, hsp, hpushed.stores (by simp [State.entireFrame]), hpushed.makes, hkeeps⟩

/-! ## RTI from the frame of any interrupt -/

/-- The frame that an interrupt stacks goes to RAM that no other bus master writes meanwhile. -/
def State.FrameInRam (s : State) (e : Exc) : Prop :=
  ∀ i, i < (s.frameBytes e).length →
    kindAt s.memMap (above (s.frameTop e) i) = .ram ∧ Undisturbed s (above (s.frameTop e) i)

/-- A frame is within the twelve bytes below S: all of them, or the upper three for FIRQ. -/
theorem State.FrameInRam.of_twelve {s : State}
    (h : ∀ i, i < 12 → kindAt s.memMap (above (s.sp - 12) i) = .ram ∧ Undisturbed s (above (s.sp - 12) i)) (e : Exc) :
    s.FrameInRam e := by
  intro i hi
  by_cases he : e = .firq
  · have htop : s.frameTop e = above (s.sp - 12) 9 := by
      rw [State.frameTop, if_pos he]; unfold above; bv_omega
    rw [State.frameBytes, if_pos he] at hi
    rw [htop, above_above]
    exact h (9 + i) (Nat.add_lt_add_left hi 9)
  · rw [State.frameTop, if_neg he]
    exact h i (Nat.lt_of_lt_of_le hi (s.frameBytes_length e))

/-- The CC in a frame is that of the interrupted program, but for E, which tells how much the frame holds
(60_exceptions.md R340 to R345). -/
theorem State.frameBytes_flag (s : State) (e : Exc) (q : Flag) :
    getFlag (pulled (s.frameBytes e) 0) q = if q = .e then e != .firq else s.flag q := by
  have entire : getFlag (s.cc ||| 0x80) q = if q = .e then true else s.flag q := getFlag_setFlag .e q true s.cc
  cases e with
  | firq => exact getFlag_setFlag .e q false s.cc
  | nmi | irq | swi | swi2 | swi3 => exact entire

/-- `Reads.eq_stored` for one byte, however many were read. -/
theorem Reads.pulled_eq_stored {s t : State} {accs : List Access} {ws : List (Word × Byte)} {a : Word} {bs cs : List Byte}
    (h : Reads t a bs) (run : s.Run t accs ws) (hs : Stores s t a cs) (hwf : s.mem.wf = true) {i : Nat}
    (hb : i < bs.length) (hc : i < cs.length) (hram : kindAt s.memMap (above a i) = .ram ∧ Undisturbed s (above a i)) :
    pulled bs i = pulled cs i := by
  obtain ⟨hk, hu⟩ := hram
  have hread := h i bs[i] (List.getElem?_eq_getElem hb) (run.settled ⟨.inl hk, hu⟩)
  have hstored := hs.2.2 hwf i cs[i] (List.getElem?_eq_getElem hc) hk hu
  rw [pulled, pulled, List.getD_eq_getElem _ _ hb, List.getD_eq_getElem _ _ hc, hread, hstored]

/-- RTI after the entry of an interrupt: CC as it was stacked. So E tells it how much there is, and it reads the very bytes
that were stacked. -/
theorem State.rti_enter_spec {s : State} {e : Exc} (hwf : s.mem.wf = true) (hf : s.FrameInRam e) :
    (∀ q, (s.enter e true).returnFromInterrupt.flag q = if q = .e then e != .firq else s.flag q) ∧
      KeepsRegs s (s.enter e true).returnFromInterrupt [] := by
  obtain ⟨hsp, hstores, _, _, hentry⟩ := s.enter_spec e
  obtain ⟨_, _, run, _⟩ := s.enter_runs e true
  obtain ⟨bs, ⟨_, reads⟩, hcc, hpos, entire, short, _⟩ := (s.enter e true).returnFromInterrupt_spec
  rw [hsp] at reads entire short
  have hframe : 0 < (s.frameBytes e).length := by unfold State.frameBytes; split <;> exact Nat.succ_pos _
  have hflag (q : Flag) : (s.enter e true).returnFromInterrupt.flag q = if q = .e then e != .firq else s.flag q :=
    (State.flag_of_cc (hcc.trans (reads.pulled_eq_stored run hstores hwf hpos hframe (hf 0 hframe))) q).trans
      (s.frameBytes_flag e q)
  refine ⟨hflag, ?_⟩
  have hbs (hl : bs.length = (s.frameBytes e).length) : bs = s.frameBytes e := reads.eq_stored run hstores hwf hl hf
  intro r _
  by_cases he : e = .firq
  · subst he
    obtain ⟨hl, hpc, hs, hkeeps⟩ := short (hflag .e)
    obtain rfl := hbs hl
    cases r with
    | pc => exact hpc.trans (word_hi_lo s.pc)
    | s => exact hs.trans (above_sub s.sp 3)
    | a | b | dp | x | y | u => exact (hkeeps _ (by decide)).trans (hentry _ (by decide))
  · have hbytes : s.frameBytes e = s.entireFrame (s.cc ||| 0x80) := if_neg he
    rw [hbytes] at hbs
    rw [State.frameTop, if_neg he] at entire
    obtain ⟨hl, ha, hb, hdp, hx, hy, hu, hpc, hs⟩ := entire ((hflag .e).trans (bne_iff_ne.mpr he))
    obtain rfl := hbs hl
    cases r with
    | a => exact congrArg zext8 ha
    | b => exact congrArg zext8 hb
    | dp => exact congrArg zext8 hdp
    | x => exact hx.trans (word_hi_lo s.x)
    | y => exact hy.trans (word_hi_lo s.y)
    | u => exact hu.trans (word_hi_lo s.u)
    | pc => exact hpc.trans (word_hi_lo s.pc)
    | s => exact hs.trans (above_sub s.sp 12)

/-- Settles O30. -/
theorem rtiUndoesEntry : Obligations.RtiUndoesEntry := by
  intro e s h hram
  obtain ⟨hflag, hregs⟩ := State.rti_enter_spec h.1 (.of_twelve hram e)
  refine ⟨_, rfl, hregs, fun k hk => ?_, hflag .e⟩
  rw [hflag, if_neg (List.mem_singleton.not.mp hk)]

end Sys2Proof.Machine

/-! # Proofs about exceptions (60_exceptions.md): what arms NMI; a halted step; the syncing state; the CWAI wait -/

namespace Sys2Proof.Machine

/-! ## What arms NMI -/

/-- An operation that begins in `m`, its operand read, arms NMI if its instruction is on the list. -/
theorem KeepsControl.arms_of {i : Instr} {s m t : State} {arms : Bool} (h : KeepsControl m t arms)
    (hm : m.nmiArmed = s.nmiArmed) (ha : armsNmi i = arms) : t.nmiArmed = (s.nmiArmed || armsNmi i) := by
  rw [h.1, hm, ha]

theorem KeepsControl.arms_of_plain {i : Instr} {s m t : State} (h : KeepsControl m t false)
    (hm : m.nmiArmed = s.nmiArmed) (plain : Plain i) : t.nmiArmed = (s.nmiArmed || armsNmi i) :=
  h.arms_of hm plain.1

/-- An instruction off the list that leaves the arming as it was. -/
theorem nmiArmed_of_kept {i : Instr} {s t : State} (h : t.nmiArmed = s.nmiArmed) (ha : armsNmi i = false) :
    t.nmiArmed = (s.nmiArmed || armsNmi i) := by
  rw [h, ha, Bool.or_false]

theorem exg_nmiArmed {r1 r2 : XReg} {s t : State} (h : exec (.exg r1 r2) s = .next t) :
    t.nmiArmed = (s.nmiArmed || armsNmi (.exg r1 r2)) := by
  by_cases hw : r1.is8 = r2.is8
  · obtain rfl := Host.Outcome.next.inj ((exec_exg_of_like hw s).symm.trans h)
    rw [State.setXreg_nmiArmed, State.setXreg_nmiArmed, Bool.or_assoc]
    rfl
  · cases (exec_exg_of_unlike hw s).symm.trans h

theorem tfr_nmiArmed {r1 r2 : XReg} {s t : State} (h : exec (.tfr r1 r2) s = .next t) :
    t.nmiArmed = (s.nmiArmed || armsNmi (.tfr r1 r2)) := by
  by_cases hw : r1.is8 = r2.is8
  · obtain rfl := Host.Outcome.next.inj ((exec_tfr_of_like hw s).symm.trans h)
    exact s.setXreg_nmiArmed r2 _
  · cases (exec_tfr_of_unlike hw s).symm.trans h

theorem State.pullRegs_nmiArmed (s : State) (k : Stack) (l : RegList) :
    (s.pullRegs k l).nmiArmed = (s.nmiArmed || (l.other && k == .u)) :=
  (s.pullRegs_control k l).1.1

/-- Settles O23, over the shapes of a meaning: a shared operation arms NMI by its register, and S is loaded besides by EXG,
TFR and PULU only. -/
theorem nmiArmedBySLoadsOnly : Obligations.NmiArmedBySLoadsOnly := by
  intro i s t h
  cases exec_shape i s with
  | accOp _ plain e =>
    obtain ⟨_, _, _, hc, _⟩ := exec_next_of_spec h e (accOp_spec _ _ _ s)
    exact hc.arms_of_plain (s.after8_nmiArmed _) plain
  | accTest _ plain e =>
    obtain ⟨_, _, _, hc, _⟩ := exec_next_of_spec h e (accTest_spec _ _ _ s)
    exact hc.arms_of_plain (s.after8_nmiArmed _) plain
  | accStore plain e =>
    obtain ⟨_, _, hc, _⟩ := exec_next_of_spec h e (accStore_spec _ _ s)
    exact hc.arms_of_plain (s.afterEA_nmiArmed _) plain
  | accModify _ plain e =>
    obtain ⟨_, _, _, hc, _⟩ := exec_next_of_spec h e (accModify_spec _ _ s)
    exact hc.arms_of_plain rfl plain
  | accProbe _ plain e =>
    obtain ⟨_, _, hc, _⟩ := exec_next_of_spec h e (accProbe_spec _ _ s)
    exact hc.arms_of_plain rfl plain
  | memModify _ plain e =>
    obtain ⟨_, _, hc, _⟩ := exec_next_of_spec h e (memModify_spec _ _ s)
    exact hc.arms_of_plain (s.afterEA_nmiArmed _) plain
  | memProbe _ plain e =>
    obtain ⟨_, _, hc, _⟩ := exec_next_of_spec h e (memProbe_spec _ _ s)
    exact hc.arms_of_plain (s.afterEA_nmiArmed _) plain
  | wideOp _ arms _ _ _ _ _ e =>
    obtain ⟨_, _, _, hc, _⟩ := exec_next_of_spec h e (wideOp_spec _ _ _ s)
    exact hc.arms_of (s.after16_nmiArmed _) arms
  | wideTest _ plain e =>
    obtain ⟨_, _, hc, _⟩ := exec_next_of_spec h e (wideTest_spec _ _ _ s)
    exact hc.arms_of_plain (s.after16_nmiArmed _) plain
  | wideStore plain e =>
    obtain ⟨_, _, hc, _⟩ := exec_next_of_spec h e (wideStore_spec _ _ s)
    exact hc.arms_of_plain (s.afterEA_nmiArmed _) plain
  | leaStack arms _ _ _ _ _ e =>
    obtain ⟨_, _, _, hc, _⟩ := exec_next_of_spec h e (leaStack_spec _ _ s)
    exact hc.arms_of (s.afterIdx_nmiArmed _) arms
  | leaIndex arms _ _ _ _ _ e =>
    obtain ⟨_, _, _, hc, _⟩ := exec_next_of_spec h e (leaIndex_spec _ _ s)
    exact hc.arms_of (s.afterIdx_nmiArmed _) arms
  | branch plain e =>
    obtain ⟨_, _, ⟨_, _, hc, _⟩, _⟩ := exec_next_of_spec h e (branch_spec _ _ s)
    exact hc.arms_of_plain rfl plain
  | branchToSubroutine plain e =>
    obtain ⟨_, _, _, _, _, hc, _⟩ := exec_next_of_spec h e (branchToSubroutine_spec _ s)
    exact hc.arms_of_plain rfl plain
  | jump plain e =>
    obtain ⟨_, ⟨_, _, hc, _⟩, _⟩ := exec_next_of_spec h e (jump_spec _ s)
    exact hc.arms_of_plain (s.afterEA_nmiArmed _) plain
  | jumpToSubroutine plain e =>
    obtain ⟨_, _, _, _, _, hc, _⟩ := exec_next_of_spec h e (jumpToSubroutine_spec _ s)
    exact hc.arms_of_plain (s.afterEA_nmiArmed _) plain
  | rts e =>
    subst e
    obtain ⟨_, _, _, _, _, hc, _⟩ := exec_next_of_spec h rfl (execRts_spec s)
    exact hc.arms_of rfl rfl
  | cwai e =>
    subst e
    obtain ⟨_, _, _, _, _, harmed, _⟩ := exec_next_of_spec h rfl (execCwai_spec _ s)
    exact nmiArmed_of_kept harmed rfl
  | exg e => subst e; exact exg_nmiArmed h
  | tfr e => subst e; exact tfr_nmiArmed h
  | pshs e => subst e; obtain rfl := Host.Outcome.next.inj h; exact nmiArmed_of_kept (s.pushRegs_nmiArmed .s _) rfl
  | pshu e => subst e; obtain rfl := Host.Outcome.next.inj h; exact nmiArmed_of_kept (s.pushRegs_nmiArmed .u _) rfl
  | puls e =>
    subst e; obtain rfl := Host.Outcome.next.inj h
    exact (s.pullRegs_nmiArmed .s _).trans (congrArg (s.nmiArmed || ·) (Bool.and_false _))
  | pulu e =>
    subst e; obtain rfl := Host.Outcome.next.inj h
    exact (s.pullRegs_nmiArmed .u _).trans (congrArg (s.nmiArmed || ·) (Bool.and_true _))
  | rti e =>
    subst e; obtain rfl := Host.Outcome.next.inj h
    obtain ⟨hc, _⟩ := s.returnFromInterrupt_keeps
    exact hc.arms_of rfl rfl
  | swi e => subst e; obtain rfl := Host.Outcome.next.inj h; exact nmiArmed_of_kept (s.enter_nmiArmed .swi true) rfl
  | swi2 e => subst e; obtain rfl := Host.Outcome.next.inj h; exact nmiArmed_of_kept (s.enter_nmiArmed .swi2 true) rfl
  | swi3 e => subst e; obtain rfl := Host.Outcome.next.inj h; exact nmiArmed_of_kept (s.enter_nmiArmed .swi3 true) rfl
  | orcc e | andcc e | sync e | nop e | daa e | mul e | sex e | abx e =>
    subst e; obtain rfl := Host.Outcome.next.inj h; exact nmiArmed_of_kept rfl rfl

/-! ## Steps without an entry and without an instruction -/

/-- What a step that stacks nothing leaves as the boundary made it: memory, the arming of NMI, the platform, the environment
and the counter. -/
structure BoundaryFrame (s t : State) : Prop where
  memory : KeepsMemory s.boundary t
  armed : t.nmiArmed = s.nmiArmed
  platform : t.bus.platform = s.bus.platform
  inputs : t.inputs = s.inputs.tail
  tick : t.tick = s.tick + 1

/-- The state after a step of `s` in which the MPU does nothing, but that it may wake: the boundary latches an NMI edge, and
no access is made. -/
structure IdlesFrom (s t : State) : Prop extends BoundaryFrame s t where
  pending : t.nmiPending = (s.nmiPending || s.nextInputs.nmiEdge)
  regs : KeepsRegs s t []
  flags : KeepsFlags s t []
  makes : Makes s.boundary t []

theorem State.boundary_idles (s : State) (r : RunState) : IdlesFrom s { s.boundary with runState := r } := by
  obtain ⟨_, hplatform, hinputs, htick, harmed, hpending, _⟩ := s.boundary_fields
  exact {
    memory := .refl_of_bus rfl
    armed := harmed
    platform := hplatform
    inputs := hinputs
    tick := htick
    pending := hpending
    regs := .of_fields rfl rfl rfl rfl rfl rfl rfl rfl []
    flags := fun k _ => s.boundary_flag k
    makes := .of_bus rfl }

/-! ## A halted step -/

theorem step_of_halted {s : State} (hreset : s.nextInputs.reset = false) (hhalt : s.nextInputs.halt = true)
    (hrun : s.runState = .running) : step s = .next s.boundary := by
  have hh : s.boundary.halted s.nextInputs = true := by
    rw [State.halted, s.boundary_fields.1, hhalt, hrun]; rfl
  exact (if_neg (Bool.eq_false_iff.mp hreset)).trans (if_pos hh)

/-- Settles O20. -/
theorem haltedStep : Obligations.HaltedStep := by
  intro s hreset hhalt hrun
  have h : IdlesFrom s s.boundary := s.boundary_idles s.boundary.runState
  exact ⟨_, step_of_halted hreset hhalt hrun, h.pending, h.armed, s.boundary_fields.1.trans hrun, h.regs, h.flags, h.memory,
    h.makes, h.platform, h.inputs, h.tick⟩

/-! ## The syncing state -/

/-- A halt is not looked at in either wait (60_exceptions.md R357, decision D15, log entry 23). -/
theorem State.proceeds_of_not_running {s : State} (hreset : s.nextInputs.reset = false) (hrun : s.runState ≠ .running) :
    s.proceeds := ⟨hreset, fun h => absurd h hrun⟩

theorem State.boundary_request_none {s : State} (hnmi : s.nmiReady = false) (hfirq : s.firqReady = false)
    (hirq : s.irqReady = false) : s.boundary.request s.nextInputs = none := by
  rw [s.boundary_request, hnmi, hfirq, hirq]; rfl

/-- With no interrupt to take, the syncing state ends or goes on as `State.wakes` says (60_exceptions.md R352 to R354). -/
theorem step_syncs {s : State} (hreset : s.nextInputs.reset = false) (hsync : s.runState = .syncing)
    (hr : s.boundary.request s.nextInputs = none) :
    ∃ t, step s = .next t ∧ t.runState = (if s.boundary.wakes s.nextInputs then .running else .syncing) ∧ IdlesFrom s t := by
  have hb : s.boundary.runState = .syncing := s.boundary_fields.1.trans hsync
  rw [step_of_proceeds (State.proceeds_of_not_running hreset (by simp [hsync])), State.action, hb, hr]
  cases s.boundary.wakes s.nextInputs with
  | true => exact ⟨_, rfl, rfl, s.boundary_idles .running⟩
  | false => exact ⟨_, rfl, hb, s.boundary_idles s.boundary.runState⟩

/-- A request, masked or short, ends the syncing state whatever the latch holds; with no NMI latched nothing else does
(60_exceptions.md R352, R353). -/
theorem State.boundary_wakes_eq_request {s : State}
    (h : (s.nextInputs.firq || s.nextInputs.irq || s.nextInputs.shortPulse) = true ∨
      (s.nmiPending || s.nextInputs.nmiEdge) = false) :
    s.boundary.wakes s.nextInputs = (s.nextInputs.firq || s.nextInputs.irq || s.nextInputs.shortPulse) := by
  have hpending : s.boundary.nmiPending = (s.nmiPending || s.nextInputs.nmiEdge) := rfl
  rw [State.wakes, hpending]
  rcases h with h | h
  · rw [h, Bool.true_or]
  · rw [h, Bool.false_and, Bool.or_false]

/-- Settles O18. -/
theorem syncContinuesOnMaskedRequest : Obligations.SyncContinuesOnMaskedRequest := by
  intro s hreset hsync hnmi hfirq hirq request hrequest
  obtain ⟨t, hstep, hrun, h⟩ := step_syncs hreset hsync (State.boundary_request_none hnmi hfirq hirq)
  rw [State.boundary_wakes_eq_request hrequest] at hrun
  exact ⟨t, hstep, hrun, h.pending, h.armed, h.regs, h.flags, h.memory, h.makes, h.platform, h.inputs, h.tick⟩

/-- Settles O19: an unarmed NMI is no request, and whichever way the syncing state goes the latch is kept. -/
theorem unarmedNmiInSync : Obligations.UnarmedNmiInSync := by
  intro s hreset hsync hunarmed hlatched hfirq hirq
  have hnmi : s.nmiReady = false := by rw [State.nmiReady, hunarmed, Bool.and_false]
  obtain ⟨t, hstep, hrun, h⟩ := step_syncs hreset hsync (State.boundary_request_none hnmi hfirq hirq)
  refine ⟨t, hstep, ?_, h.pending.trans hlatched, h.armed.trans hunarmed, h.regs, h.flags, h.memory, h.makes⟩
  split at hrun
  · exact .inl hrun
  · exact .inr hrun

/-! ## The CWAI wait -/

/-- The state in which the CWAI wait of `s` ends in an interrupt: its masks and pc, nothing stacked, and E left open after
FIRQ (60_exceptions.md R355, R356). -/
structure ResumesFrom (s t : State) (e : Exc) : Prop extends BoundaryFrame s t where
  pending : t.nmiPending = ((s.nmiPending || s.nextInputs.nmiEdge) && e != .nmi)
  vector : LoadsVector s.boundary t e.vector []
  flags : ∀ q, (q = .e → e ≠ .firq) → t.flag q =
    if q = .i ∧ (e = .nmi ∨ e = .firq ∨ e = .irq ∨ e = .swi) then true
    else if q = .f ∧ (e = .nmi ∨ e = .firq ∨ e = .swi) then true else s.flag q
  regs : KeepsRegs s t [.pc]
  runState : t.runState = .running

theorem State.boundary_resumes (s : State) (e : Exc) : ResumesFrom s (s.boundary.enter e false) e := by
  obtain ⟨hvector, hflags, hregs, hmemory⟩ := s.boundary.enter_wait_spec e
  obtain ⟨_, hplatform, hinputs, htick, harmed, hpending, _⟩ := s.boundary_fields
  exact {
    memory := hmemory
    armed := (State.enter_nmiArmed _ _ _).trans harmed
    platform := (State.enter_platform _ _ _).trans hplatform
    inputs := (State.enter_inputs _ _ _).trans hinputs
    tick := (State.enter_tick _ _ _).trans htick
    pending := by rw [State.enter_nmiPending, hpending]
    vector := hvector
    flags := fun q hq => by rw [hflags q hq, s.boundary_flag]
    regs := fun r hr => (hregs r hr).trans (s.boundary_reg r)
    runState := State.enter_runState _ _ _ }

/-- Beside E after FIRQ, the flags that such an entry can change are I and, but for IRQ, F. -/
theorem ResumesFrom.keepsFlags {s t : State} {e : Exc} {fs : List Flag} (h : ResumesFrom s t e)
    (he : e = .firq → .e ∈ fs) (hi : .i ∈ fs) (hf : e = .irq ∨ .f ∈ fs) : KeepsFlags s t fs := by
  intro k hk
  rw [h.flags k fun hke hfirq => hk (hke ▸ he hfirq), if_neg, if_neg]
  · rintro ⟨rfl, hmasks⟩
    rcases hf with rfl | hf
    · simp at hmasks
    · exact hk hf
  · rintro ⟨rfl, _⟩
    exact hk hi

/-- A step in the CWAI wait is the entry of the interrupt requested, or nothing (60_exceptions.md R355). -/
theorem step_cwaiWaits {s : State} (hreset : s.nextInputs.reset = false) (hwait : s.runState = .cwaiWaiting) :
    ∃ t, step s = .next t ∧ BoundaryFrame s t ∧
      (∀ e, s.boundary.request s.nextInputs = some e → ResumesFrom s t e) ∧
      (s.boundary.request s.nextInputs = none → t.runState = .cwaiWaiting ∧ IdlesFrom s t) := by
  have hb : s.boundary.runState = .cwaiWaiting := s.boundary_fields.1.trans hwait
  rw [step_of_proceeds (State.proceeds_of_not_running hreset (by simp [hwait])), State.action, hb]
  cases s.boundary.request s.nextInputs with
  | none =>
    have idles : IdlesFrom s s.boundary := s.boundary_idles s.boundary.runState
    exact ⟨_, rfl, idles.toBoundaryFrame, nofun, fun _ => ⟨hb, idles⟩⟩
  | some e =>
    have resumes := s.boundary_resumes e
    exact ⟨_, rfl, resumes.toBoundaryFrame, fun _ he => Option.some.inj he ▸ resumes, nofun⟩

theorem State.boundary_request_ne_nmi {s : State} (hnmi : s.nmiReady = false) :
    s.boundary.request s.nextInputs ≠ some .nmi := by
  rw [s.boundary_request, hnmi]
  cases s.firqReady <;> cases s.irqReady <;> decide

/-- Settles O17: each clause names the one interrupt that its hypotheses request, or none. -/
theorem cwaiWaitEndsInEntry : Obligations.CwaiWaitEndsInEntry := by
  intro s hreset hwait
  obtain ⟨t, hstep, frame, enters, waits⟩ := step_cwaiWaits hreset hwait
  refine ⟨t, hstep, frame.memory, frame.platform, frame.inputs, frame.tick, frame.armed, fun hnmi => ?_, fun hnmi => ?_,
    fun hnmi hfirq => ?_, fun hnmi hfirq hirq => ?_, fun hnmi hfirq hirq => ?_⟩
  · have h : ResumesFrom s t .nmi := enters .nmi (by rw [s.boundary_request, hnmi]; rfl)
    exact ⟨h.vector, h.flags .i nofun, h.flags .f nofun, h.keepsFlags nofun (by decide) (.inr (by decide)), h.regs,
      h.pending.trans (Bool.and_false _), h.runState⟩
  · cases hr : s.boundary.request s.nextInputs with
    | none =>
      obtain ⟨_, h⟩ := waits hr
      exact h.pending
    | some e =>
      have hne : e ≠ .nmi := fun he => State.boundary_request_ne_nmi hnmi (he ▸ hr)
      rw [(enters e hr).pending, bne_iff_ne.mpr hne, Bool.and_true]
  · have h : ResumesFrom s t .firq := enters .firq (by rw [s.boundary_request, hnmi, hfirq]; rfl)
    exact ⟨h.vector, h.flags .i nofun, h.flags .f nofun, h.keepsFlags (fun _ => by decide) (by decide) (.inr (by decide)),
      h.regs, h.runState⟩
  · have h : ResumesFrom s t .irq := enters .irq (by rw [s.boundary_request, hnmi, hfirq, hirq]; rfl)
    exact ⟨h.vector, h.flags .i nofun, h.keepsFlags nofun (by decide) (.inl rfl), h.regs, h.runState⟩
  · obtain ⟨hrun, h⟩ := waits (State.boundary_request_none hnmi hfirq hirq)
    exact ⟨hrun, h.regs, h.flags, h.makes⟩

end Sys2Proof.Machine
